-- ==== Sys2Proof/Word.lean ====
section
/-! DEFINITION. The word types of the LS-420: what the manual treats as bits (names, tokens, tags, host addresses,
encoded records) and the two small numbered sets (clients, holder slots). -/

namespace Sys2Proof

/-- One byte of a record. -/
abbrev Byte := BitVec 8

/-- A 32-bit register word (11.3) . -/
abbrev Word := BitVec 32

/-- A lock name, or a code or mask over lock names: 32 bits (R1). The value 0 is not a lock name. -/
abbrev Name := BitVec 32

/-- A grant token: 64 bits (R16). -/
abbrev Token := BitVec 64

/-- A request tag: 32 bits, not interpreted (R20, 11.1). -/
abbrev Tag := BitVec 32

/-- A host address of a ring: 64 bits (11.1, 11.3). -/
abbrev HostAddr := BitVec 64

/-- A submission entry: 64 bytes, byte k of the record in bits 8k to 8k+7 (11.1). -/
abbrev Record := BitVec 512

/-- A completion slot: 32 bytes, byte k in bits 8k to 8k+7 (11.2). -/
abbrev CompletionBytes := BitVec 256

/-- A client number, 0 to 31; client 0 is the control client (Terms). -/
abbrev ClientId := Fin 32

/-- A count of engine resets, by which the host link's accesses from before a reset are told from those after it (R151). -/
abbrev Epoch := Nat

/-- A holder slot number, 0 to 7 (1.2). -/
abbrev SlotId := Fin 8

end Sys2Proof
end

