-- ==== Sys2Proof/Config.lean ====
section
/-! DEFINITION. What the part fixes: the sizes of its tables, the constants of its rules, and the one value the manual
leaves to the implementation (the design revision that IDENT reports). -/

namespace Sys2Proof.Config

/-- Lock entries of the table (R10, R11). -/
def lockEntries : Nat := 4096

/-- Waiter records of the pool (R42). -/
def waiterRecords : Nat := 2048

/-- Entries of the watch table (R88). -/
def watchEntries : Nat := 64

/-- Watches one client may own (R88). -/
def watchLimit : Nat := 8

/-- The grant-token counter ends here: the last token it can issue is this number less 1 (R17). -/
def tokenEnd : Nat := 2 ^ 64

/-- The largest value of the 16-bit saturating counts and of the lease and wait fields (R13, R56, R114). -/
def max16 : Nat := 65535

/-- A wait field of this value means without limit (R22). -/
def waitWithoutLimit : Nat := 65535

/-- The top of the score (R99). -/
def topScore : Nat := 255

/-- Tokens an expired-token list keeps (R64). -/
def expiredDepth : Nat := 4

/-- The largest owed-tick count (R81). -/
def owedMax : Nat := 255

/-- The largest overflow count of the fault capture (R147). -/
def overflowMax : Nat := 255

/-- The tick period after every engine reset, in units of 10 µs (R78). -/
def resetPeriod : Nat := 100

/-- Depth of a pending-notice list: 8 for client 0 and 4 for clients 1 to 31 (R114). -/
def noticeDepth (c : ClientId) : Nat := if c = 0 then 8 else 4

/-- Charges of the table of R100. -/
def chargeLeaseExpiry : Nat := 16
@[inherit_doc chargeLeaseExpiry] def chargeUnknownToken : Nat := 4
@[inherit_doc chargeLeaseExpiry] def chargeNameDenied : Nat := 4
@[inherit_doc chargeLeaseExpiry] def chargePrivilege : Nat := 8
@[inherit_doc chargeLeaseExpiry] def chargeBadRequest : Nat := 2
@[inherit_doc chargeLeaseExpiry] def chargeBadConsumed : Nat := 2

/-- Bits 31 to 16 of IDENT: the part (11.3). -/
def partNumber : BitVec 16 := 0x0420

/-- Bits 15 to 0 of IDENT: the design revision. The manual gives the field and no value, so it is a FREE VALUE: it has
no body, and nothing may be proved of it. -/
opaque designRevision : BitVec 16

/-- Every client number, in increasing order. -/
def allClients : List ClientId :=
  [0, 1, 2, 3, 4, 5, 6, 7, 8, 9, 10, 11, 12, 13, 14, 15, 16, 17, 18, 19, 20, 21, 22, 23, 24, 25, 26, 27, 28, 29, 30, 31]

/-- Every holder slot, in increasing order. -/
def allSlots : List SlotId := [0, 1, 2, 3, 4, 5, 6, 7]

end Sys2Proof.Config
end

