-- ==== Sys2Proof/Syntax.lean ====
section
/-! DEFINITION. The commands of the block: one constructor for each row of spec/opcode_table.json, in the table's order.
A command is a step of the part, whole and indivisible (95_what_each_step_holds): the taking of a record in hand by its
owner, a register write, the end of a host link access, an event of the Lease Clock, a charge, a teardown step. -/

namespace Sys2Proof

/-- The mode of a hold, a waiter or a lock entry (R2). -/
inductive Mode where
  | shared
  | exclusive
  deriving DecidableEq, Repr

/-- The kind of a host link fault, as the link reports it (R145). -/
inductive FaultKind where
  /-- The link reported the target as not present or not responding. -/
  | unreachable
  /-- The access did not end within the link's completion time. -/
  | linkTimeout
  /-- The link refused the address. -/
  | address
  deriving DecidableEq, Repr

/-- An access to a client's ring as a report of the host link names it: the client, and the epoch in which the access began, so
that an access which an engine reset has abandoned is told from a later one of the same ring (R151, log entry 15). -/
structure Access where
  client : ClientId
  epoch : Epoch
  deriving DecidableEq, Repr

/-- The failure of an access to a control ring, with the epoch in which the access began (R149, R151, log entry 15). -/
structure ControlFailure where
  kind : FaultKind
  epoch : Epoch
  deriving DecidableEq, Repr

/-- The commands. In the first twenty-one rows and in `unknownOpcode` the operand `q` is the queue pair whose record in
hand is taken: the record itself came with `fetchReadReturn` and stands in the ring context (R121, R123). -/
inductive Instr where
  /-- ACQUIRE (R23): the record in hand of queue pair `q` is an ACQUIRE and is taken. -/
  | acquire (q : ClientId)
  /-- TRY_ACQUIRE_SET (R37). -/
  | tryAcquireSet (q : ClientId)
  /-- RELEASE (R66). -/
  | release (q : ClientId)
  /-- RENEW (R67). -/
  | renew (q : ClientId)
  /-- UPGRADE (R69). -/
  | upgrade (q : ClientId)
  /-- DOWNGRADE (R68). -/
  | downgrade (q : ClientId)
  /-- CANCEL (R54). -/
  | cancel (q : ClientId)
  /-- WATCH (R91). -/
  | watch (q : ClientId)
  /-- UNWATCH (R92). -/
  | unwatch (q : ClientId)
  /-- NOP (R123). -/
  | nop (q : ClientId)
  /-- CONFIGURE_CLIENT (R134). -/
  | configureClient (q : ClientId)
  /-- CONFIGURE_CLIENT_RING_SWAP (R134): the writes to the old completion ring of client `c` have ended. -/
  | configureClientRingSwap (c : ClientId)
  /-- ENABLE_CLIENT (R135). -/
  | enableClient (q : ClientId)
  /-- DISABLE_CLIENT (R136). -/
  | disableClient (q : ClientId)
  /-- RESET_CLIENT (R137). -/
  | resetClient (q : ClientId)
  /-- REINSTATE_CLIENT (R109). -/
  | reinstateClient (q : ClientId)
  /-- SET_STANDING (R111). -/
  | setStanding (q : ClientId)
  /-- FORCE_RELEASE (R75). -/
  | forceRelease (q : ClientId)
  /-- QUERY_LOCK (R18). -/
  | queryLock (q : ClientId)
  /-- QUERY_CLIENT (R139). -/
  | queryClient (q : ClientId)
  /-- SET_TIMEBASE (R80). -/
  | setTimebase (q : ClientId)
  /-- SET_LIMITS (R104). -/
  | setLimits (q : ClientId)
  /-- SUBMIT (R116): a POST word of kind 0 naming client `c` with the given index. -/
  | submit (c : ClientId) (index : BitVec 12)
  /-- CONSUMED (R117): a POST word of kind 1. -/
  | consumed (c : ClientId) (index : BitVec 12)
  /-- ARM (R118): a POST word of kind 2; its index is not examined (R155). -/
  | arm (c : ClientId) (index : BitVec 12)
  /-- POST_UNDEFINED_KIND (R155): a POST word of kind 3. -/
  | postUndefinedKind (c : ClientId) (index : BitVec 12)
  /-- START (R148): an ENGINE CONTROL write with bit 0 set and bit 1 clear. -/
  | start
  /-- SOFT_RESET (R151): an ENGINE CONTROL write with bit 1 set; `andStart` is its bit 0 (R148). -/
  | softReset (andStart : Bool)
  /-- FAULT_CLEAR (R147): any value written. -/
  | faultClear (value : Word)
  /-- REGISTER_WRITE (R155): a write of a word at an offset of the register window. -/
  | registerWrite (offset : BitVec 12) (value : Word)
  /-- POWER_ON (R152). -/
  | powerOn
  /-- HOST_LINK_RESET (R152). -/
  | hostLinkReset
  /-- FETCH_GRANT (R120). -/
  | fetchGrant
  /-- FETCH_READ_RETURN (R121): a read of a submission ring returns these 64 bytes without error. -/
  | fetchReadReturn (access : Access) (bytes : Record)
  /-- COMPLETION_WRITE_END (R125): a write to a completion ring ends without error. -/
  | completionWriteEnd (access : Access)
  /-- CLIENT_SUBMISSION_READ_FAULT (R146). -/
  | clientSubmissionReadFault (access : Access) (kind : FaultKind)
  /-- CLIENT_COMPLETION_WRITE_FAULT (R146). -/
  | clientCompletionWriteFault (access : Access) (kind : FaultKind)
  /-- CONTROL_READ_FAULT (R149). -/
  | controlReadFault (failure : ControlFailure)
  /-- CONTROL_WRITE_FAULT (R149). -/
  | controlWriteFault (failure : ControlFailure)
  /-- TICK (R78). -/
  | tick
  /-- OWED_TICK_SWEEP (R81). -/
  | owedTickSweep
  /-- TICK_VISIT_ENTRY (R82). -/
  | tickVisitEntry (name : Name)
  /-- LEASE_EXPIRY (R84), raised for the hold that carries the token at the named entry. -/
  | leaseExpiry (name : Name) (token : Token)
  /-- WAIT_EXPIRY (R57), raised for the waiter of client `c` with the tag at the named entry. -/
  | waitExpiry (name : Name) (c : ClientId) (tag : Tag)
  /-- UPGRADE_WAIT_EXPIRY (R73), raised for the pending upgrade with the tag at the named entry. -/
  | upgradeWaitExpiry (name : Name) (tag : Tag)
  /-- RECOVERY_VISIT (R86). -/
  | recoveryVisit (c : ClientId)
  /-- RECOVERY_COMPLETE (R110): the visit that brings the recovery remaining to 0. -/
  | recoveryComplete (c : ClientId)
  /-- STANDING_CHARGE (R100): a charge of this amount handed on for client `c` is taken. -/
  | standingCharge (c : ClientId) (amount : Nat)
  /-- STANDING_CREDIT (R101). -/
  | standingCredit (c : ClientId)
  /-- TEARDOWN_REMOVE_WAITER (R141): client `c`'s waiter at the named entry. -/
  | teardownRemoveWaiter (c : ClientId) (name : Name)
  /-- TEARDOWN_REMOVE_UPGRADE (R141): client `c`'s pending upgrade at the named entry. -/
  | teardownRemoveUpgrade (c : ClientId) (name : Name)
  /-- TEARDOWN_REVOKE_HOLD (R141): client `c`'s next hold in hold-list order. -/
  | teardownRevokeHold (c : ClientId)
  /-- TEARDOWN_REMOVE_WATCHES (R142). -/
  | teardownRemoveWatches (c : ClientId)
  /-- TEARDOWN_END (R142). -/
  | teardownEnd (c : ClientId)
  /-- WATCH_EVENT_MATCH (R93): the oldest watch event in transit for the named lock is taken by the Watch Filter. -/
  | watchEventMatch (name : Name)
  /-- UNKNOWN_OPCODE (R153): the record in hand of queue pair `q` carries an opcode that is not in the table of 11.1. -/
  | unknownOpcode (q : ClientId)
  deriving DecidableEq, Repr

end Sys2Proof
end

