-- ==== Sys2Proof/Machine/State.lean ====
section
/-! DEFINITION. The state of the LS-420, block by block as the manual's table of blocks owns it, as plain data; the reasons
a step can stop; and the state after power-on. -/

namespace Sys2Proof.Machine

/-! ## Reasons to stop -/

/-- Faults. The manual gives every command an effect in every state (a command whose occasion is absent is not taken and
changes nothing), so no meaning raises a fault and the type has no constructor. -/
inductive Fault where
  deriving DecidableEq, Repr

/-- Refusals. -/
inductive Refusal where
  /-- The arm of a command that has no meaning yet; raised by the dispatch alone, and by no arm of it now. Safe. -/
  | notModelled (mnemonic : String)
  deriving DecidableEq, Repr

/-! ## Records the engine writes -/

/-- The reason that stands with CANCELLED (11.2, byte 3). -/
inductive CancelReason where
  | byRequest
  | isolation
  | forced
  deriving DecidableEq, Repr

/-- The status codes of 11.2; CANCELLED carries its reason. -/
inductive Status where
  | ok | granted | busy | timeout
  | cancelled (reason : CancelReason)
  | stale | unknownToken | leaseLost | alreadyHeld | duplicateWait | quotaHolds | quotaWaits | quotaWatches
  | poolEmpty | tableFull | nameDenied | badRequest | privilege | upgradeConflict | wrongMode | notFound
  | wrongState | badConfig | clientBusy | teardownPending
  deriving DecidableEq, Repr

/-- A grade (R102). -/
inductive Grade where
  | good
  | warned
  | restricted
  deriving DecidableEq, Repr

/-- The six client states (R131). -/
inductive ClientState where
  | unconfigured
  | disabled
  | active
  | isolated
  | recovering
  | halted
  deriving DecidableEq, Repr

/-- The kinds of watch event (R90). -/
inductive EventKind where
  | granted
  | released
  | expired
  | revoked
  | freed
  deriving DecidableEq, Repr

/-- Which ring of a client an access touched (R146). -/
inductive RingSide where
  | submission
  | completion
  deriving DecidableEq, Repr

/-- The causes a CLIENT_STANDING notice carries (R103, R108, R110). -/
inductive StandingCause where
  | enteredRestricted
  | isolated
  | returnedToActive
  deriving DecidableEq, Repr

/-- A contention report (R28). -/
structure Report where
  holder : ClientId
  holders : Nat
  ahead : Nat
  mode : Mode
  deriving DecidableEq, Repr

/-- What QUERY_LOCK reports of an entry (R18). -/
structure LockSnapshot where
  mode : Mode
  holders : Nat
  firstHolder : ClientId
  waiters : Nat
  headClient : ClientId
  headMode : Mode
  upgradePending : Bool
  contention : Nat
  deriving DecidableEq, Repr

/-- What QUERY_CLIENT reports of a client (R139). -/
structure ClientSnapshot where
  state : ClientState
  score : Nat
  grade : Grade
  teardown : Bool
  holds : Nat
  waits : Nat
  watches : Nat
  reservations : Nat
  lost : Nat
  recovery : Nat
  deriving DecidableEq, Repr

/-- The body of a response (11.2, bytes 12 to 31). -/
inductive Body where
  | empty
  | granted (token : Token) (lease waited : Nat) (report : Option Report) (count : Nat)
  | busy (report : Report) (bitmap : Nat)
  | timeout (waited : Nat) (report : Report)
  | renewed (lease : Nat)
  | lock (snapshot : LockSnapshot)
  | client (snapshot : ClientSnapshot)
  deriving DecidableEq, Repr

/-- A response: the completion record that answers one request or command. `index` is the submission consumer index as it
stood when the answered record was taken (R123). -/
structure Response where
  status : Status
  tag : Tag
  index : Nat
  body : Body
  deriving DecidableEq, Repr

/-- A notice: a completion record that answers no request (R84, R75, R103, R94, R146). -/
inductive Notice where
  | expired (name : Name) (token : Token) (tag : Tag)
  | revoked (name : Name) (token : Token) (tag : Tag)
  | standing (old new : Grade) (score : Nat)
  | watch (tag : Tag) (kind : EventKind) (name : Name) (holder : ClientId) (token : Token) (mode : Mode)
  | clientFault (client : ClientId) (ring : RingSide) (kind : FaultKind) (index : Nat)
  | clientStanding (client : ClientId) (cause : StandingCause) (score : Nat)
  deriving DecidableEq, Repr

/-- A completion record. -/
inductive Completion where
  | response (r : Response)
  | notice (n : Notice)
  deriving DecidableEq, Repr

/-! ## Lock Table Unit and Waiter Pool -/

/-- One hold in a holder slot (1.2). `expiryRaised` says that a visit has raised its lease expiry, which is neither taken
nor withdrawn yet (R82, R83). -/
structure Holder where
  client : ClientId
  token : Token
  mode : Mode
  lease : Nat
  tag : Tag
  expiryRaised : Bool
  deriving DecidableEq, Repr

/-- A waiter record (R41). `wait` is none for an indefinite wait. `index` is the consumer index its response will carry
(R123, R154); `expiryRaised` as for a hold. -/
structure Waiter where
  client : ClientId
  tag : Tag
  order : BitVec 64
  mode : Mode
  priority : Nat
  wait : Option Nat
  lease : Nat
  waited : Nat
  report : Report
  index : Nat
  expiryRaised : Bool
  deriving DecidableEq, Repr

/-- A pending upgrade (1.2, R71). `client` is the client of the holder slot it belongs to. -/
structure PendingUpgrade where
  slot : SlotId
  client : ClientId
  tag : Tag
  order : BitVec 64
  wait : Option Nat
  waited : Nat
  report : Report
  index : Nat
  expiryRaised : Bool
  deriving DecidableEq, Repr

/-- A resident lock entry (1.2). -/
structure LockEntry where
  name : Name
  mode : Mode
  slots : Vector (Option Holder) 8
  waiters : List Waiter
  upgrade : Option PendingUpgrade
  contention : Nat
  deriving DecidableEq, Repr

/-- An item of a hold list (R14). -/
structure HoldItem where
  name : Name
  token : Token
  deriving DecidableEq, Repr

/-- What the Lock Table Unit keeps for one client: hold list, wait count, expired-token list (newest first), request
count (R14, R44, R64, R53). -/
structure Account where
  holds : List HoldItem
  waits : Nat
  expired : List Token
  requests : BitVec 64
  deriving DecidableEq, Repr

/-! ## Watch Filter -/

/-- A watch (R88); bit k of `events` is the event kind of bit k in 11.1. -/
structure Watch where
  owner : ClientId
  tag : Tag
  code : Name
  mask : Name
  events : BitVec 5
  deriving DecidableEq, Repr

/-- A watch event in transit from the Lock Table Unit to the Watch Filter (R90, R96); FREED carries client 0, token 0 and
SHARED (R94). -/
structure WatchEvent where
  kind : EventKind
  name : Name
  client : ClientId
  token : Token
  mode : Mode
  deriving DecidableEq, Repr

/-! ## Standing Unit -/

/-- The standing record of one client (R99, R102). -/
structure Standing where
  score : Nat
  grade : Grade
  deriving DecidableEq, Repr

/-- The five standing limits (R104). -/
structure Limits where
  warning : Nat
  restricted : Nat
  recovery : Nat
  leaseCap : Nat
  waitCap : Nat
  deriving DecidableEq, Repr

/-- A charge or credit handed to the Standing Unit and not yet taken (R100, R101). -/
inductive StandingItem where
  | charge (client : ClientId) (amount : Nat)
  | credit (client : ClientId)
  deriving DecidableEq, Repr

/-! ## Lease Clock -/

/-- The visits a tick's sweep has still to make (R81): lock entries by name, and RECOVERING clients. -/
structure Sweep where
  entries : List Name
  clients : List ClientId
  deriving DecidableEq, Repr

/-- The Lease Clock (R78, R81, R86). `owed` holds one sweep for each owed tick, oldest first, so the owed-tick count is its
length. -/
structure Clock where
  period : Nat
  nextPeriod : Nat
  elapsed : Nat
  sweep : Sweep
  owed : List Sweep
  recovery : Vector Nat 32
  deriving DecidableEq, Repr

/-! ## Control Command Unit -/

/-- The part of a client's configuration that the client record keeps (R129); the ring bases and sizes stand in the ring
context. -/
structure ClientConfig where
  vector : Nat
  windowCode : Name
  windowMask : Name
  defaultLease : Nat
  holdQuota : Nat
  waitQuota : Nat
  deriving DecidableEq, Repr

/-- The causes of a teardown (R140). -/
inductive TeardownCause where
  | isolation
  | halt
  | reset
  deriving DecidableEq, Repr

/-- A command of the control queue whose answer waits: the tag and the consumer index its response will carry. -/
structure CommandRef where
  tag : Tag
  index : Nat
  deriving DecidableEq, Repr

/-- A teardown in progress: its cause and the command, if any, whose answer waits for its end (R129). -/
structure Teardown where
  cause : TeardownCause
  waiting : Option CommandRef
  deriving DecidableEq, Repr

/-- Where a client's two rings stand in host memory (R114). -/
structure RingPlace where
  sqBase : HostAddr
  sqSize : Nat
  cqBase : HostAddr
  cqSize : Nat
  deriving DecidableEq, Repr

/-- An accepted CONFIGURE_CLIENT that waits for the writes to the old completion ring: the new bases and sizes, the
configuration to go back to, and the commands whose answers wait (R134). -/
structure RingSwap where
  place : RingPlace
  old : ClientConfig
  waiting : List CommandRef
  deriving DecidableEq, Repr

/-- A client record (R129). `teardown` is present exactly when the teardown flag is set. -/
structure ClientRecord where
  state : ClientState
  config : ClientConfig
  teardown : Option Teardown
  recoveryPending : Bool
  swap : Option RingSwap
  deriving DecidableEq, Repr

/-! ## Queue Unit -/

/-- The fetch state of a ring context (R114). A read in flight keeps its `index`, the consumer index at which it began, which a
fault of it reports (R121, R146). `discard` says that the client has left ACTIVE since the read began, so that the
record is discarded when the read returns, even if the client is ACTIVE again by then (R35, R121, R136), or that its rings have
been replaced under the read (log entry 10). -/
inductive FetchState where
  | idle
  | fetching (index : Nat) (discard : Bool)
  | inHand (bytes : Record)
  deriving DecidableEq, Repr

/-- A completion write in flight: its slot, and the phase and lost count fixed when it began (R125). -/
structure WriteInFlight where
  slot : Nat
  phase : Bool
  lost : Nat
  record : Completion
  deriving DecidableEq, Repr

/-- A ring context (R114). `waiting` are the records handed on behind the write in flight, oldest first (R125). -/
structure RingContext where
  place : RingPlace
  sqConsumer : Nat
  sqPosted : Nat
  cqProducer : Nat
  phase : Bool
  consumedHead : Nat
  occupied : Nat
  reserved : Nat
  notices : List Notice
  lost : Nat
  armed : Bool
  fetch : FetchState
  writing : Option WriteInFlight
  waiting : List Completion
  deriving DecidableEq, Repr

/-- What the engine puts on the host link: the start of a 64-byte read, a 32-byte completion write, an interrupt message to
a vector (R118, R121, R125, R154). -/
inductive LinkOutput where
  | readBegin (client : ClientId) (address : HostAddr)
  | writeBegin (client : ClientId) (address : HostAddr) (bytes : CompletionBytes)
  | interrupt (client : ClientId) (vector : Nat)
  deriving DecidableEq, Repr

/-! ## Fault Capture and registers -/

/-- The engine states (10.4). -/
inductive EngineState where
  | stopped
  | running
  | halted
  deriving DecidableEq, Repr

/-- The halt causes (R149). -/
inductive HaltCause where
  | none
  | controlReadFault
  | controlWriteFault
  | tokenSpace
  deriving DecidableEq, Repr

/-- The START refusal causes (R148). -/
inductive StartRefusal where
  | none
  | badControlRing
  deriving DecidableEq, Repr

/-- One host link fault as the capture latch keeps it (R147). -/
structure FaultInfo where
  client : ClientId
  ring : RingSide
  index : Nat
  kind : FaultKind
  deriving DecidableEq, Repr

/-- The fault capture: the latch, empty or full, and the overflow count (R147). -/
structure Capture where
  latch : Option FaultInfo
  overflow : Nat
  deriving DecidableEq, Repr

/-- The control ring registers (11.3): low and high words of the two bases, and the sizes. -/
structure Registers where
  sqBaseLow : Word
  sqBaseHigh : Word
  cqBaseLow : Word
  cqBaseHigh : Word
  sizes : Word
  deriving DecidableEq, Repr

/-! ## The state -/

/-- The whole block. `pending` is the queue of commands that wait, `linkOut` what the last event taken put on the host link, in
order, and `epoch` the number of engine resets taken, by which a late report of an abandoned access is known (R151); the three
are the model's own. -/
structure State where
  pending : List Instr
  epoch : Epoch
  engine : EngineState
  haltCause : HaltCause
  startRefusal : StartRefusal
  regs : Registers
  capture : Capture
  table : List LockEntry
  freeEntries : Nat
  nextToken : Nat
  poolFree : Nat
  accounts : Vector Account 32
  clock : Clock
  standings : Vector Standing 32
  limits : Limits
  standingQueue : List StandingItem
  watches : List Watch
  watchEvents : List (List WatchEvent)
  clients : Vector ClientRecord 32
  rings : Vector RingContext 32
  roundRobin : Nat
  linkOut : List LinkOutput
  deriving DecidableEq, Repr

/-! ## Reset values -/

/-- The control ring registers after power-on and host link reset: all 0 (R152). -/
def Registers.zero : Registers := { sqBaseLow := 0, sqBaseHigh := 0, cqBaseLow := 0, cqBaseHigh := 0, sizes := 0 }

/-- No capture (R147). -/
def Capture.empty : Capture := { latch := none, overflow := 0 }

/-- A client's account after every engine reset (R14, R44, R53, R64). -/
def Account.reset : Account := { holds := [], waits := 0, expired := [], requests := 0 }

/-- Nothing to visit. -/
def Sweep.empty : Sweep := { entries := [], clients := [] }

/-- The Lease Clock after every engine reset (R78, R79, R86, R87). -/
def Clock.reset : Clock :=
  { period := Config.resetPeriod, nextPeriod := Config.resetPeriod, elapsed := 0, sweep := Sweep.empty, owed := [],
    recovery := Vector.replicate 32 0 }

/-- A standing record after every engine reset (R113). -/
def Standing.reset : Standing := { score := 0, grade := .good }

/-- The limits after every engine reset (R104). -/
def Limits.reset : Limits := { warning := 64, restricted := 160, recovery := 200, leaseCap := 250, waitCap := 250 }

/-- The configuration of an UNCONFIGURED client. The manual gives it none, and no event reads these fields before
CONFIGURE_CLIENT stores its own; the zeros are a DESIGN CHOICE (log entry 8). -/
def ClientConfig.unconfigured : ClientConfig :=
  { vector := 0, windowCode := 0, windowMask := 0, defaultLease := 0, holdQuota := 0, waitQuota := 0 }

/-- The fixed configuration of client 0 (R129): a mask of 0 admits every name. -/
def ClientConfig.control : ClientConfig :=
  { vector := 0, windowCode := 0, windowMask := 0, defaultLease := 1000, holdQuota := 256, waitQuota := 64 }

/-- A client record of clients 1 to 31 after every engine reset (R129). -/
def ClientRecord.unconfigured : ClientRecord :=
  { state := .unconfigured, config := .unconfigured, teardown := none, recoveryPending := false, swap := none }

/-- Client 0's record after every engine reset (R129, R130). -/
def ClientRecord.control : ClientRecord :=
  { state := .active, config := .control, teardown := none, recoveryPending := false, swap := none }

/-- No rings: the base and size of an UNCONFIGURED client (R114; zeros by log entry 8), which POST words read between its
CONFIGURE_CLIENT and its ring swap (DESIGN CHOICE, log entry 33), and of the control ring registers that read 0. -/
def RingPlace.none : RingPlace := { sqBase := 0, sqSize := 0, cqBase := 0, cqSize := 0 }

/-- A ring context at the reset values of R114, with its rings at the given place. -/
def RingContext.reset (place : RingPlace) : RingContext :=
  { place := place, sqConsumer := 0, sqPosted := 0, cqProducer := 0, phase := true, consumedHead := 0, occupied := 0,
    reserved := 0, notices := [], lost := 0, armed := false, fetch := .idle, writing := Option.none, waiting := [] }

/-- The control rings as the control ring registers place them (11.3). -/
def Registers.place (r : Registers) : RingPlace :=
  { sqBase := r.sqBaseHigh ++ r.sqBaseLow, sqSize := (r.sizes.extractLsb' 0 16).toNat,
    cqBase := r.cqBaseHigh ++ r.cqBaseLow, cqSize := (r.sizes.extractLsb' 16 16).toNat }

/-- Every block at its reset values, with the given control ring registers and fault capture (R151, R152). -/
def State.resetWith (regs : Registers) (capture : Capture) : State :=
  { pending := [], epoch := 0, engine := .stopped, haltCause := .none, startRefusal := .none, regs := regs, capture := capture,
    table := [], freeEntries := Config.lockEntries, nextToken := 1, poolFree := Config.waiterRecords,
    accounts := Vector.replicate 32 Account.reset, clock := Clock.reset,
    standings := Vector.replicate 32 Standing.reset, limits := Limits.reset, standingQueue := [],
    watches := [], watchEvents := [],
    clients := (Vector.replicate 32 ClientRecord.unconfigured).set 0 ClientRecord.control,
    rings := (Vector.replicate 32 (RingContext.reset RingPlace.none)).set 0 (RingContext.reset regs.place),
    roundRobin := 0, linkOut := [] }

/-- The block right after power-on (R152): every reset value of R151, the control ring registers 0 and the fault capture
empty. -/
def State.reset : State := State.resetWith Registers.zero Capture.empty

end Sys2Proof.Machine
end

