-- ==== Sys2Proof/Machine/Formats.lean ====
section
/-! DEFINITION. The 32 bytes of a completion record (11.2, R154) and the words the register window reads (11.3). -/

namespace Sys2Proof.Machine

/-- Fields packed least significant byte first: each item is a byte offset, a length in bytes and a value. Every byte that
no item names is 0 (R154). -/
def packFields : List (Nat × Nat × Nat) → Nat
  | [] => 0
  | (off, len, v) :: rest => (v % 2 ^ (8 * len)) * 2 ^ (8 * off) + packFields rest

/-- Modes are encoded 0 for SHARED and 1 for EXCLUSIVE (11.1). -/
def modeCode : Mode → Nat
  | .shared => 0
  | .exclusive => 1

/-- The status codes (11.2). -/
def statusCode : Status → Nat
  | .ok => 0 | .granted => 1 | .busy => 2 | .timeout => 3 | .cancelled _ => 4 | .stale => 5 | .unknownToken => 6
  | .leaseLost => 7 | .alreadyHeld => 8 | .duplicateWait => 9 | .quotaHolds => 10 | .quotaWaits => 11
  | .quotaWatches => 12 | .poolEmpty => 13 | .tableFull => 14 | .nameDenied => 15 | .badRequest => 16
  | .privilege => 17 | .upgradeConflict => 18 | .wrongMode => 19 | .notFound => 20 | .wrongState => 21
  | .badConfig => 22 | .clientBusy => 23 | .teardownPending => 24

/-- Byte 3: the cancel reason of CANCELLED, 0 otherwise (11.2). -/
def reasonCode : Status → Nat
  | .cancelled .byRequest => 1
  | .cancelled .isolation => 2
  | .cancelled .forced => 3
  | _ => 0

/-- Grades in QUERY_CLIENT and STANDING (11.2). -/
def gradeCode : Grade → Nat
  | .good => 0
  | .warned => 1
  | .restricted => 2

/-- Client states in QUERY_CLIENT (11.2). -/
def clientStateCode : ClientState → Nat
  | .unconfigured => 0
  | .disabled => 1
  | .active => 2
  | .isolated => 3
  | .recovering => 4
  | .halted => 5

/-- The bit number of an event kind in 11.1's event set. -/
def eventCode : EventKind → Nat
  | .granted => 0
  | .released => 1
  | .expired => 2
  | .revoked => 3
  | .freed => 4

/-- Rings in CLIENT_FAULT and FAULT CAPTURE (11.2, 11.3). -/
def ringCode : RingSide → Nat
  | .submission => 0
  | .completion => 1

/-- Fault kinds in CLIENT_FAULT and FAULT CAPTURE (11.2, 11.3). -/
def faultCode : FaultKind → Nat
  | .unreachable => 1
  | .linkTimeout => 2
  | .address => 3

/-- Causes in CLIENT_STANDING (11.2). -/
def standingCauseCode : StandingCause → Nat
  | .enteredRestricted => 1
  | .isolated => 2
  | .returnedToActive => 3

/-- A yes-or-no field. -/
def flagCode (b : Bool) : Nat := if b then 1 else 0

/-- A contention report in bytes 24 to 27, flagged by bit 0 of byte 29 (11.2). -/
def reportFields (r : Report) : List (Nat × Nat × Nat) :=
  [(24, 1, r.holder.val), (25, 1, r.holders), (26, 1, r.ahead), (27, 1, modeCode r.mode), (29, 1, 1)]

/-- The body of a response (11.2, R154). -/
def bodyFields : Body → List (Nat × Nat × Nat)
  | .empty => []
  | .granted token lease waited report count =>
    [(12, 8, token.toNat), (20, 2, lease), (22, 2, waited), (28, 1, count)] ++ (report.map reportFields).getD []
  | .busy report bitmap => (28, 1, bitmap) :: reportFields report
  | .timeout waited report => (22, 2, waited) :: reportFields report
  | .renewed lease => [(20, 2, lease)]
  | .lock l =>
    [(12, 1, modeCode l.mode), (13, 1, l.holders), (14, 1, l.firstHolder.val), (15, 1, l.headClient.val),
     (16, 1, modeCode l.headMode), (17, 1, flagCode l.upgradePending), (18, 2, l.waiters), (20, 2, l.contention)]
  | .client c =>
    [(12, 1, clientStateCode c.state), (13, 1, c.score), (14, 1, gradeCode c.grade), (15, 1, flagCode c.teardown),
     (16, 2, c.holds), (18, 1, c.waits), (19, 1, c.watches), (20, 2, c.reservations), (22, 2, c.lost), (24, 2, c.recovery)]

/-- The fields of a notice: its record kind in byte 0, and what its kind names (11.2). -/
def noticeFields : Notice → List (Nat × Nat × Nat)
  | .expired name token tag => [(0, 1, 1), (8, 4, tag.toNat), (12, 8, token.toNat), (20, 4, name.toNat)]
  | .revoked name token tag => [(0, 1, 2), (8, 4, tag.toNat), (12, 8, token.toNat), (20, 4, name.toNat)]
  | .standing old new score => [(0, 1, 3), (12, 1, gradeCode old), (13, 1, gradeCode new), (14, 1, score)]
  | .watch tag kind name holder token mode =>
    [(0, 1, 4), (8, 4, tag.toNat), (12, 8, token.toNat), (20, 4, name.toNat), (24, 1, eventCode kind),
     (25, 1, holder.val), (26, 1, modeCode mode)]
  | .clientFault client ring kind index =>
    [(0, 1, 5), (12, 1, client.val), (13, 1, ringCode ring), (14, 1, faultCode kind), (16, 2, index)]
  | .clientStanding client cause score =>
    [(0, 1, 6), (12, 1, client.val), (13, 1, standingCauseCode cause), (14, 1, score)]

/-- The fields of a completion record apart from its phase and lost count (11.2). -/
def completionFields : Completion → List (Nat × Nat × Nat)
  | .response r =>
    [(0, 1, 0), (1, 1, statusCode r.status), (3, 1, reasonCode r.status), (6, 2, r.index), (8, 4, r.tag.toNat)]
      ++ bodyFields r.body
  | .notice n => noticeFields n

/-- The 32 bytes of a completion write: bit 0 of byte 2 the phase, bytes 4 and 5 the lost-notice count, both as the write
began (R125, R154). -/
def completionBytes (w : WriteInFlight) : CompletionBytes :=
  BitVec.ofNat 256 (packFields ((2, 1, flagCode w.phase) :: (4, 2, w.lost) :: completionFields w.record))

/-- The engine states in ENGINE STATUS (11.3). -/
def engineCode : EngineState → Nat
  | .stopped => 0
  | .running => 1
  | .halted => 2

/-- The halt causes in ENGINE STATUS (11.3). -/
def haltCode : HaltCause → Nat
  | .none => 0
  | .controlReadFault => 1
  | .controlWriteFault => 2
  | .tokenSpace => 3

/-- The START refusal causes in ENGINE STATUS (11.3). -/
def startRefusalCode : StartRefusal → Nat
  | .none => 0
  | .badControlRing => 1

/-- FAULT CAPTURE, word 0 (11.3): the overflow count, and with a full latch bit 31 and the fault. The manual gives an empty latch
no kind, ring or client (R147); that their bits then read 0 is a DESIGN CHOICE (log entry 32). The manual gives bits 30 to 24, 15
to 14, 11 to 9 and 7 to 5 no contents; that they read 0 is a DESIGN CHOICE (log entry 34). -/
def captureWord0 (c : Capture) : Word :=
  BitVec.ofNat 32 (c.overflow * 2 ^ 16 +
    match c.latch with
    | some f => 2 ^ 31 + faultCode f.kind * 2 ^ 12 + ringCode f.ring * 2 ^ 8 + f.client.val
    | none => 0)

/-- FAULT CAPTURE, word 1 (11.3): the ring index of the latched fault. That the word reads 0 while the latch is empty is a DESIGN
CHOICE (log entry 32), and so is it that bits 31 to 16, which the manual gives no contents, read 0 (log entry 34). -/
def captureWord1 (c : Capture) : Word :=
  match c.latch with
  | some f => BitVec.ofNat 32 (f.index % 2 ^ 16)
  | none => 0

/-- What a read of the register window reports (11.3, R155). A read changes no state; offsets that the table does not name,
and the write-only registers, read 0. The manual gives bits 31 to 12 and 3 to 2 of ENGINE STATUS no contents; that they read 0
is a DESIGN CHOICE (log entry 34). -/
def State.readRegister (s : State) (offset : BitVec 12) : Word :=
  if offset = 0x000 then Config.partNumber ++ Config.designRevision
  else if offset = 0x008 then
    BitVec.ofNat 32 (engineCode s.engine + haltCode s.haltCause * 2 ^ 4 + startRefusalCode s.startRefusal * 2 ^ 8)
  else if offset = 0x010 then s.regs.sqBaseLow
  else if offset = 0x014 then s.regs.sqBaseHigh
  else if offset = 0x018 then s.regs.cqBaseLow
  else if offset = 0x01C then s.regs.cqBaseHigh
  else if offset = 0x020 then s.regs.sizes
  else if offset = 0x080 then captureWord0 s.capture
  else if offset = 0x084 then captureWord1 s.capture
  else 0

end Sys2Proof.Machine
end

