-- ==== Sys2Proof/Machine/Ops.lean ====
section
/-! DEFINITION. The named operations that the meanings share: reading and writing the client tables, the host link, ring
contexts and their writer, responses and notices, the standing record, teardown and halt, the lock table, and the taking
of a command as one event. -/

namespace Sys2Proof.Machine

/-! ## The per-client tables -/

def State.ring (s : State) (c : ClientId) : RingContext := s.rings[c]
def State.client (s : State) (c : ClientId) : ClientRecord := s.clients[c]
def State.standing (s : State) (c : ClientId) : Standing := s.standings[c]
def State.account (s : State) (c : ClientId) : Account := s.accounts[c]
def State.recovery (s : State) (c : ClientId) : Nat := s.clock.recovery[c]

def State.setRing (s : State) (c : ClientId) (r : RingContext) : State := { s with rings := s.rings.set c r }
def State.setClient (s : State) (c : ClientId) (r : ClientRecord) : State := { s with clients := s.clients.set c r }
def State.setStanding (s : State) (c : ClientId) (r : Standing) : State := { s with standings := s.standings.set c r }
def State.setAccount (s : State) (c : ClientId) (a : Account) : State := { s with accounts := s.accounts.set c a }
def State.setRecovery (s : State) (c : ClientId) (n : Nat) : State :=
  { s with clock := { s.clock with recovery := s.clock.recovery.set c n } }

/-! ## Arithmetic of the manual's counts -/

/-- A count that saturates at 65,535 rises by 1 (R13, R56, R114). -/
def satSucc (n : Nat) : Nat := if n < Config.max16 then n + 1 else n

/-- Equality of the bits a mask selects: the test of a watch and of a name window (R89, 1.1). -/
def covers (code mask name : Name) : Bool := name &&& mask == code &&& mask

/-! ## What the engine puts on the host link -/

/-- The link is quiet: an event that is taken starts with no output of its own. -/
def State.quiet (s : State) : State := { s with linkOut := [] }

/-- One more output of the event. -/
def State.put (s : State) (o : LinkOutput) : State := { s with linkOut := s.linkOut ++ [o] }

/-! ## Client predicates -/

/-- Nothing is written to this client: it is HALTED, or under a teardown started by RESET_CLIENT (R124, R127). -/
def ClientRecord.muted (r : ClientRecord) : Bool :=
  r.state == .halted || (match r.teardown with | some t => t.cause == .reset | none => false)

/-- The client cannot take a grant: ISOLATED, HALTED, or a teardown in progress (R47). -/
def ClientRecord.unfit (r : ClientRecord) : Bool := r.state == .isolated || r.state == .halted || r.teardown.isSome

/-- A name lies in the client's name window (1.1, R89). Client 0's window admits every name by its mask of 0. -/
def ClientRecord.admits (r : ClientRecord) (name : Name) : Bool := covers r.config.windowCode r.config.windowMask name

/-! ## Ring contexts (R114, R115) -/

/-- Slots neither occupied nor reserved (R115). -/
def RingContext.free (r : RingContext) : Nat := r.place.cqSize - r.occupied - r.reserved

/-- The distance from an index to another, modulo the size of their ring (Conventions). -/
def ringDistance (size start stop : Nat) : Nat := (stop + size - start) % size

/-- The work posted: last posted producer index less consumer index, modulo the ring size (R114). -/
def RingContext.work (r : RingContext) : Nat := ringDistance r.place.sqSize r.sqConsumer r.sqPosted

/-- The host address of an entry of a ring (R114). -/
def entryAddress (base : HostAddr) (bytes index : Nat) : HostAddr := base + BitVec.ofNat 64 (bytes * index)

/-- A read is in flight. -/
def FetchState.isFetching : FetchState → Bool
  | .fetching .. => true
  | .idle | .inHand _ => false

/-- A read in flight will be discarded when it returns, and keeps its index; a record in hand stays in hand (R35, R121). -/
def FetchState.abandon : FetchState → FetchState
  | .fetching index _ => .fetching index true
  | .idle => .idle
  | .inHand r => .inHand r

/-- A client leaves ACTIVE without a teardown, and with it a read in flight is lost (R35, R136). Every other way out of ACTIVE
begins a teardown, which lasts until the read has returned (R142), so that the return finds it in progress. -/
def State.abandonRead (s : State) (c : ClientId) : State :=
  s.setRing c { s.ring c with fetch := (s.ring c).fetch.abandon }

/-- The writer of client `c`'s ring: with no write in flight, the oldest record waiting begins its write, in the slot at the
producer index, with the phase in force and the lost count, which returns to 0 (R125). -/
def State.startWrite (s : State) (c : ClientId) : State :=
  match (s.ring c).writing, (s.ring c).waiting with
  | none, rec :: rest =>
    let w : WriteInFlight :=
      { slot := (s.ring c).cqProducer, phase := (s.ring c).phase, lost := (s.ring c).lost, record := rec }
    (s.setRing c { s.ring c with writing := some w, waiting := rest, lost := 0 }).put
      (.writeBegin c (entryAddress (s.ring c).place.cqBase 32 w.slot) (completionBytes w))
  | _, _ => s

/-- A record is handed on for client `c`'s ring: it stands behind the earlier ones (R125). -/
def State.handOn (s : State) (c : ClientId) (rec : Completion) : State :=
  (s.setRing c { s.ring c with waiting := (s.ring c).waiting ++ [rec] }).startWrite c

/-- A notice claims a free unreserved slot and is handed on (R126). -/
def State.claim (s : State) (c : ClientId) (n : Notice) : State :=
  (s.setRing c { s.ring c with reserved := (s.ring c).reserved + 1 }).handOn c (.notice n)

/-- The drain of a pending-notice list, oldest first, until it is empty or no slot is free (R126). -/
def State.drainFrom (s : State) (c : ClientId) : List Notice → State
  | [] => s.setRing c { s.ring c with notices := [] }
  | n :: rest =>
    if 1 ≤ (s.ring c).free then (s.claim c n).drainFrom c rest
    else s.setRing c { s.ring c with notices := n :: rest }

/-- The drain of client `c`'s list; the list of a client to which nothing is written is frozen (R126, R127). -/
def State.drain (s : State) (c : ClientId) : State :=
  if (s.client c).muted then s else s.drainFrom c (s.ring c).notices

/-- A reservation is released with no write, and the list drains into the freed slot (R124, R126). -/
def State.releaseReservation (s : State) (c : ClientId) : State :=
  (s.setRing c { s.ring c with reserved := (s.ring c).reserved - 1 }).drain c

/-- A response is handed on into its reservation, or the reservation is released with no write when nothing is written to
the client (R124, R127). -/
def State.respond (s : State) (c : ClientId) (r : Response) : State :=
  if (s.client c).muted then s.releaseReservation c else s.handOn c (.response r)

/-- A WATCH notice (R95, R126). -/
def Notice.isWatch : Notice → Bool
  | .watch .. => true
  | _ => false

/-- A notice is handed to the Queue Unit (R95, R126, R127): dropped without counting when nothing is written to the client or
its ring swap waits (R134); written into a free slot when the list is empty; otherwise kept in the list, unless it is a WATCH
notice or the list is full, and then counted lost. R134 drops a notice while the command waits for writes to the old ring; that
it is dropped as well while a swap waits with no such write in flight is a DESIGN CHOICE (log entry 36). -/
def State.notify (s : State) (c : ClientId) (n : Notice) : State :=
  if (s.client c).muted || (s.client c).swap.isSome then s
  else if 1 ≤ (s.ring c).free ∧ (s.ring c).notices = [] then s.claim c n
  else if !n.isWatch ∧ (s.ring c).notices.length < Config.noticeDepth c then
    s.setRing c { s.ring c with notices := (s.ring c).notices ++ [n] }
  else s.setRing c { s.ring c with lost := satSucc (s.ring c).lost }

/-- The records that wait behind the write in flight are not written, and their reservations are released (R127). -/
def State.dropWaiting (s : State) (c : ClientId) : State :=
  s.setRing c { s.ring c with waiting := [], reserved := (s.ring c).reserved - (s.ring c).waiting.length }

/-- The fetch state returns to idle (R123). -/
def State.idleFetch (s : State) (c : ClientId) : State := s.setRing c { s.ring c with fetch := .idle }

/-! ## Records taken -/

/-- What an owner knows of a taken record beside its fields: its queue pair, its tag, the consumer index its response will
carry (R123), and the restricted lease cap when intake adjusted it (R105). -/
structure Taken where
  client : ClientId
  tag : Tag
  index : Nat
  cap : Option Nat
  deriving DecidableEq, Repr

/-- The response to a taken record. -/
def Taken.response (k : Taken) (status : Status) (body : Body) : Response :=
  { status := status, tag := k.tag, index := k.index, body := body }

/-- The answer to a taken record, with a body. -/
def State.answerWith (s : State) (k : Taken) (status : Status) (body : Body) : State :=
  s.respond k.client (k.response status body)

/-- The answer to a taken record, with no body. -/
def State.answer (s : State) (k : Taken) (status : Status) : State := s.answerWith k status .empty

/-! ## Standing (R99 to R107) -/

/-- A charge is handed to the Standing Unit (R100). -/
def State.handCharge (s : State) (c : ClientId) (amount : Nat) : State :=
  { s with standingQueue := s.standingQueue ++ [.charge c amount] }

/-- A credit of 1 is handed to the Standing Unit (R101). -/
def State.handCredit (s : State) (c : ClientId) : State :=
  { s with standingQueue := s.standingQueue ++ [.credit c] }

/-- The grade that a score has under the limits (R102). -/
def gradeOf (l : Limits) (score : Nat) : Grade :=
  if score < l.warning then .good else if score < l.restricted then .warned else .restricted

/-- The client is graded again; a change hands on a STANDING notice, and on entering RESTRICTED a CLIENT_STANDING notice,
neither for a client to which nothing is written (R103). Client 0 is not graded (R99). -/
def State.regrade (s : State) (c : ClientId) : State :=
  let old := s.standing c
  let new := gradeOf s.limits old.score
  if c = 0 ∨ new = old.grade then s
  else
    let s1 := s.setStanding c { old with grade := new }
    if (s1.client c).muted then s1
    else
      let s2 := s1.notify c (.standing old.grade new old.score)
      if new = .restricted then s2.notify 0 (.clientStanding c .enteredRestricted old.score) else s2

/-- A client that leaves RECOVERING is not visited by the ticks that have arrived (R81). -/
def Sweep.dropClient (w : Sweep) (c : ClientId) : Sweep := { w with clients := w.clients.filter (· != c) }

/-- A lock entry that is removed is not visited by the ticks that have arrived, even if its name returns (R81). -/
def Sweep.dropEntry (w : Sweep) (name : Name) : Sweep := { w with entries := w.entries.filter (· != name) }

/-- Every sweep, running or owed, forgets the client. -/
def State.forgetClient (s : State) (c : ClientId) : State :=
  { s with clock := { s.clock with sweep := s.clock.sweep.dropClient c, owed := s.clock.owed.map (·.dropClient c) } }

/-- Every sweep, running or owed, forgets the entry. -/
def State.forgetEntry (s : State) (name : Name) : State :=
  { s with clock := { s.clock with sweep := s.clock.sweep.dropEntry name, owed := s.clock.owed.map (·.dropEntry name) } }

/-- The client is isolated: ISOLATED, with a teardown of cause isolation and the command, if any, whose answer waits for its
end (R107, R140). -/
def State.isolate (s : State) (c : ClientId) (waiting : Option CommandRef) : State :=
  s.setClient c { s.client c with state := .isolated, teardown := some { cause := .isolation, waiting := waiting } }

/-! ## The lock table (1.2, 1.3) -/

/-- The entry of a name, if it is resident (R1). -/
def State.entry? (s : State) (name : Name) : Option LockEntry := s.table.find? (fun e => e.name == name)

/-- An entry put in its place: the table is kept with its names rising, and an entry of the same name is replaced. -/
def putEntry (e : LockEntry) : List LockEntry → List LockEntry
  | [] => [e]
  | x :: xs => if x.name = e.name then e :: xs else if e.name < x.name then e :: x :: xs else x :: putEntry e xs

/-- The lowest-numbered free holder slot (R5). -/
def LockEntry.freeSlot? (e : LockEntry) : Option SlotId := Config.allSlots.find? (fun i => (e.slots[i]).isNone)

/-- The occupied slots with their holds, lowest slot first. -/
def LockEntry.holders (e : LockEntry) : List (SlotId × Holder) :=
  Config.allSlots.filterMap (fun i => (e.slots[i]).map (fun h => (i, h)))

/-- The number of occupied holder slots. -/
def LockEntry.holderCount (e : LockEntry) : Nat := e.holders.length

/-- The slot and hold of a client on the entry. -/
def LockEntry.holderOf? (e : LockEntry) (c : ClientId) : Option (SlotId × Holder) :=
  e.holders.find? (fun p => p.2.client == c)

/-- The slot and hold that carry a token (R4). -/
def LockEntry.holderByToken? (e : LockEntry) (t : Token) : Option (SlotId × Holder) :=
  e.holders.find? (fun p => p.2.token == t)

/-- The waiter of a client on the entry. -/
def LockEntry.waiterOf? (e : LockEntry) (c : ClientId) : Option Waiter := e.waiters.find? (fun w => w.client == c)

/-- The client's waiter stands at the head of the list. -/
def LockEntry.headIs (e : LockEntry) (c : ClientId) : Bool :=
  match e.waiters with
  | w :: _ => w.client == c
  | [] => false

/-- The client of the lowest-numbered occupied slot (R5, R28). -/
def LockEntry.firstHolder (e : LockEntry) : ClientId :=
  match e.holders with
  | (_, h) :: _ => h.client
  | [] => 0

/-- The contention report of the entry as it stands, with this many waiters ahead (R28). -/
def LockEntry.report (e : LockEntry) (ahead : Nat) : Report :=
  { holder := e.firstHolder, holders := e.holderCount, ahead := ahead, mode := e.mode }

/-- The waiters whose priority is equal to or more urgent than `p` (R28). -/
def LockEntry.aheadOf (e : LockEntry) (p : Nat) : Nat := (e.waiters.filter (fun w => w.priority ≤ p)).length

/-- The contention count rises by 1 (R13). -/
def LockEntry.contend (e : LockEntry) : LockEntry := { e with contention := satSucc e.contention }

/-- A request of this mode is grantable at once on the resident entry (R26). -/
def LockEntry.grantableNow (e : LockEntry) (m : Mode) : Bool :=
  e.mode == .shared && m == .shared && e.freeSlot?.isSome && e.waiters.isEmpty && e.upgrade.isNone

/-- A head waiter of this mode is grantable (R48). -/
def LockEntry.headGrantable (e : LockEntry) (m : Mode) : Bool :=
  e.holderCount == 0 || (m == .shared && e.mode == .shared && e.freeSlot?.isSome)

/-- A new entry before its first hold stands in it (R10). -/
def LockEntry.fresh (name : Name) (m : Mode) : LockEntry :=
  { name := name, mode := m, slots := Vector.replicate 8 none, waiters := [], upgrade := none, contention := 0 }

/-- The entry's record is stored in the table. -/
def State.storeEntry (s : State) (e : LockEntry) : State := { s with table := putEntry e s.table }

/-- A watch event is handed to the Watch Filter: it joins the events of the lock event in progress (R9, R96). -/
def appendLast (ev : WatchEvent) : List (List WatchEvent) → List (List WatchEvent)
  | [] => [[ev]]
  | [b] => [b ++ [ev]]
  | b :: bs => b :: appendLast ev bs

@[inherit_doc appendLast] def State.emit (s : State) (ev : WatchEvent) : State :=
  { s with watchEvents := appendLast ev s.watchEvents }

/-- The watch event of a hold (R90). -/
def State.emitHold (s : State) (kind : EventKind) (name : Name) (h : Holder) : State :=
  s.emit { kind := kind, name := name, client := h.client, token := h.token, mode := h.mode }

/-- A resident entry is removed: its name is absent, its entry free, and FREED is handed on (R12). -/
def State.removeEntry (s : State) (name : Name) : State :=
  (({ s with table := s.table.filter (fun e => e.name != name), freeEntries := s.freeEntries + 1 }).forgetEntry name).emit
    { kind := .freed, name := name, client := 0, token := 0, mode := .shared }

/-! ## Accounts (R14, R44, R53, R64) -/

/-- The client's hold list has as many items as its hold quota (R15). -/
def State.atHoldQuota (s : State) (c : ClientId) : Bool := (s.client c).config.holdQuota ≤ (s.account c).holds.length

/-- The client's wait count equals its wait quota (R44). -/
def State.atWaitQuota (s : State) (c : ClientId) : Bool := (s.client c).config.waitQuota ≤ (s.account c).waits

/-- A grant appends its hold to the client's hold list (R14). -/
def State.appendHold (s : State) (c : ClientId) (i : HoldItem) : State :=
  s.setAccount c { s.account c with holds := (s.account c).holds ++ [i] }

/-- A hold's item leaves the client's hold list (R14). -/
def State.dropHold (s : State) (c : ClientId) (t : Token) : State :=
  s.setAccount c { s.account c with holds := (s.account c).holds.filter (fun i => i.token != t) }

/-- The wait count rises by 1 (R44). -/
def State.addWait (s : State) (c : ClientId) : State :=
  s.setAccount c { s.account c with waits := (s.account c).waits + 1 }

/-- The wait count falls by 1 (R44). -/
def State.subWait (s : State) (c : ClientId) : State :=
  s.setAccount c { s.account c with waits := (s.account c).waits - 1 }

/-- A lost token joins the front of the expired-token list, and a fifth drops off its back (R64). -/
def State.loseToken (s : State) (c : ClientId) (t : Token) : State :=
  s.setAccount c { s.account c with expired := (t :: (s.account c).expired).take Config.expiredDepth }

/-- The request count rises by 1 as an ACQUIRE or UPGRADE of the client is taken (R53). -/
def State.countRequest (s : State) (c : ClientId) : State :=
  s.setAccount c { s.account c with requests := (s.account c).requests + 1 }

/-- The next grant token is drawn (R16). -/
def State.drawToken (s : State) : State := { s with nextToken := s.nextToken + 1 }

/-- The token that the next grant draws (R16). -/
def State.token (s : State) : Token := BitVec.ofNat 64 s.nextToken

/-! ## Teardown and halt -/

/-- The engine enters HALTED with a cause; everything else stays as it stands (R149, R150). -/
def State.halt (s : State) (cause : HaltCause) : State := { s with engine := .halted, haltCause := cause }

/-! ## Taking a command as one event -/

/-- An event that the engine takes while it is RUNNING. `k` answers none when the occasion of the event is absent; the event
is then not taken, and nothing changes (log entry 2). In STOPPED and HALTED no such event is taken (R128, R150). -/
def takeEvent (s : State) (k : State → Option State) : Host.Outcome State Fault Refusal :=
  .next (if s.engine = .running then (k s.quiet).getD s else s)

/-- A report of the host link of an access that began in this epoch: one of an access that an engine reset has abandoned is
ignored, an error included (R151, R152, log entry 15). -/
def takeReport (epoch : Epoch) (s : State) (taken : Host.Outcome State Fault Refusal) : Host.Outcome State Fault Refusal :=
  if epoch = s.epoch then taken else .next s

/-- The watch events that a lock event hands on are kept together, in their order (R9). -/
def State.openBatch (s : State) : State := { s with watchEvents := s.watchEvents ++ [[]] }

/-- A lock event that handed on no watch event leaves none in transit. -/
def closeLast : List (List WatchEvent) → List (List WatchEvent)
  | [] => []
  | [b] => if b = [] then [] else [b]
  | b :: bs => b :: closeLast bs

@[inherit_doc closeLast] def State.closeBatch (s : State) : State :=
  { s with watchEvents := closeLast s.watchEvents }

/-- The end of an event that may grant: when its grants needed tokens beyond the counter's end, the event is not taken, the
state before it stands, and the engine halts with cause TOKEN_SPACE (R17). -/
def State.settleTokens (before after : State) : State :=
  if after.nextToken ≤ Config.tokenEnd then after else before.quiet.halt .tokenSpace

/-- An event at a lock entry, taken whole (R8): its watch events in one batch, its tokens checked. -/
def takeLockEvent (s : State) (k : State → Option State) : Host.Outcome State Fault Refusal :=
  takeEvent s (fun s1 => (k s1.openBatch).map (fun s2 => s.settleTokens s2.closeBatch))

end Sys2Proof.Machine
end

