-- ==== Sys2Proof/Machine/GrantPass.lean ====
section
/-! DEFINITION. An event in progress at one lock entry: making and removing holds, ending waiters and pending upgrades, the
grant pass, and the end of the event (R3 to R9, R45 to R52, R72 to R74). -/

namespace Sys2Proof.Machine

/-- An event in progress at a lock entry: the entry as the event has made it so far, and the rest of the block. The table of
`state` keeps the entry as it stood before until `close`. -/
structure AtEntry where
  entry : LockEntry
  state : State

/-- The event acts on the rest of the block. -/
def AtEntry.onState (w : AtEntry) (f : State → State) : AtEntry := { w with state := f w.state }

/-- The event acts on the entry. -/
def AtEntry.onEntry (w : AtEntry) (f : LockEntry → LockEntry) : AtEntry := { w with entry := f w.entry }

/-- Holder slot `i` holds what is given. -/
def LockEntry.setSlot (e : LockEntry) (i : SlotId) (h : Option Holder) : LockEntry := { e with slots := e.slots.set i h }

/-- The response that ends a waiter or a pending upgrade of a client that cannot take a grant, in place of `status`: the
reservation carries CANCELLED/ISOLATION, or nothing when nothing is written to the client (R47, R57, R72, R85). -/
def State.endingFor (s : State) (c : ClientId) (status : Status) : Status :=
  if (s.client c).unfit then .cancelled .isolation else status

/-- The body that goes with an ending: TIMEOUT reports, every other ending carries none (2.8). -/
def timeoutBody (status : Status) (waited : Nat) (report : Report) : Body :=
  match status with
  | .timeout => .timeout waited report
  | _ => .empty

/-! ## Holds -/

/-- A grant fills the lowest free slot with a hold that carries the next token, and appends it to the client's hold list
(R5, R14, R16). An entry without a holder takes the mode of the grant (R6). -/
def AtEntry.grantHold (w : AtEntry) (c : ClientId) (m : Mode) (lease : Nat) (tag : Tag) : AtEntry :=
  match w.entry.freeSlot? with
  | none => w
  | some i =>
    let h : Holder := { client := c, token := w.state.token, mode := m, lease := lease, tag := tag, expiryRaised := false }
    { entry := { w.entry.setSlot i (some h) with mode := if w.entry.holderCount = 0 then m else w.entry.mode },
      state := (w.state.drawToken).appendHold c { name := w.entry.name, token := w.state.token } }

/-- A GRANTED watch event for the hold that carries the token (R90). -/
def State.emitGranted (s : State) (name : Name) (c : ClientId) (t : Token) (m : Mode) : State :=
  s.emit { kind := .granted, name := name, client := c, token := t, mode := m }

/-- A hold leaves: its slot becomes free and its item leaves the client's hold list (R5, R14). -/
def AtEntry.removeHold (w : AtEntry) (i : SlotId) (h : Holder) : AtEntry :=
  { entry := w.entry.setSlot i none, state := w.state.dropHold h.client h.token }

/-! ## Endings of waiters and pending upgrades -/

/-- A waiter's record returns to the pool and the client's wait count falls by 1 (R42, R44). -/
def State.returnWaiter (s : State) (x : Waiter) : State := ({ s with poolFree := s.poolFree + 1 }).subWait x.client

/-- The one response of a waiter (R59). -/
def Waiter.response (x : Waiter) (status : Status) (body : Body) : Response :=
  { status := status, tag := x.tag, index := x.index, body := body }

/-- A waiter's wait ends without a grant: its record returns and its response is handed on (R33, R59). -/
def State.endWaiter (s : State) (x : Waiter) (status : Status) : State :=
  (s.returnWaiter x).respond x.client (x.response status (timeoutBody status x.waited x.report))

/-- A waiter leaves the list from where it stands (R43). -/
def LockEntry.dropWaiter (e : LockEntry) (c : ClientId) : LockEntry :=
  { e with waiters := e.waiters.eraseP (fun w => w.client == c) }

/-- The one response of a pending upgrade (R72). -/
def PendingUpgrade.response (u : PendingUpgrade) (status : Status) (body : Body) : Response :=
  { status := status, tag := u.tag, index := u.index, body := body }

/-- A pending upgrade ends without conversion: its record is removed, the client's wait count falls by 1, and its response
is handed on (R72). -/
def AtEntry.endUpgrade (w : AtEntry) (u : PendingUpgrade) (status : Status) : AtEntry :=
  { entry := { w.entry with upgrade := none },
    state := (w.state.subWait u.client).respond u.client (u.response status (timeoutBody status u.waited u.report)) }

/-- The pending upgrade that belongs to slot `i`, if there is one, ends with the status that `status` gives its client
(R7, R9). -/
def AtEntry.endUpgradeOfSlot (w : AtEntry) (i : SlotId) (status : State → ClientId → Status) : AtEntry :=
  match w.entry.upgrade with
  | some u => if u.slot = i then w.endUpgrade u (status w.state u.client) else w
  | none => w

/-! ## The grant pass -/

/-- The pass grants its head waiter, in the order of R50. -/
def AtEntry.grantWaiter (w : AtEntry) (x : Waiter) : AtEntry :=
  (w.grantHold x.client x.mode x.lease x.tag).onState (fun s =>
    ((s.returnWaiter x).respond x.client
      (x.response .granted (.granted w.state.token x.lease x.waited (some x.report) 1))).emitGranted
        w.entry.name x.client w.state.token x.mode)

/-- The pass over the waiter list, from the head, until a head is not grantable or the list is empty (R47 to R50). -/
def passWaiters : List Waiter → AtEntry → AtEntry
  | [], w => w.onEntry (fun e => { e with waiters := [] })
  | x :: rest, w =>
    if (w.state.client x.client).unfit then
      passWaiters rest (w.onState (fun s => s.endWaiter x (.cancelled .isolation)))
    else if w.entry.headGrantable x.mode then
      if w.state.atHoldQuota x.client then passWaiters rest (w.onState (fun s => s.endWaiter x .quotaHolds))
      else passWaiters rest (w.grantWaiter x)
    else w.onEntry (fun e => { e with waiters := x :: rest })

/-- A pending upgrade whose holder stands alone is converted: the hold becomes EXCLUSIVE with its token and lease, and the
upgrade is answered GRANTED. No token is drawn and no watch event is handed on (R46, R72). -/
def AtEntry.convert (w : AtEntry) (u : PendingUpgrade) (h : Holder) : AtEntry :=
  { entry := { w.entry.setSlot u.slot (some { h with mode := .exclusive }) with mode := .exclusive, upgrade := none },
    state := (w.state.subWait u.client).respond u.client
      (u.response .granted (.granted h.token h.lease u.waited (some u.report) 1)) }

/-- The grant pass (R45 to R51): the pending upgrade first, then, with none left, the waiter list. -/
def AtEntry.grantPass (w : AtEntry) : AtEntry :=
  match w.entry.upgrade with
  | none => passWaiters w.entry.waiters w
  | some u =>
    if (w.state.client u.client).unfit then passWaiters w.entry.waiters (w.endUpgrade u (.cancelled .isolation))
    else
      match w.entry.slots[u.slot] with
      | some h => if w.entry.holderCount = 1 then w.convert u h else w
      | none => w

/-- The end of the event: an entry with no holder is removed, any other is stored (R3, R12). -/
def AtEntry.close (w : AtEntry) : State :=
  if w.entry.holderCount = 0 then w.state.removeEntry w.entry.name else w.state.storeEntry w.entry

/-- The grant pass and the end of the event. -/
def AtEntry.passAndClose (w : AtEntry) : State := w.grantPass.close

/-! ## Revocation, shared by FORCE_RELEASE and teardown (R75, R141) -/

/-- A hold is revoked: it leaves, its token joins the expired-token list, REVOKED is handed to the Watch Filter, and a
REVOKED notice to its client; its pending upgrade ends with the given status, and the grant pass runs. -/
def AtEntry.revoke (w : AtEntry) (i : SlotId) (h : Holder) (status : State → ClientId → Status) : State :=
  (((w.removeHold i h).onState (fun s =>
    ((s.loseToken h.client h.token).emitHold .revoked w.entry.name h).notify h.client
      (.revoked w.entry.name h.token h.tag))).endUpgradeOfSlot i status).passAndClose

end Sys2Proof.Machine
end

