-- ==== Sys2Proof/Decode.lean ====
section
/-! DEFINITION. Reading encodings: the opcode and the fields of a 64-byte submission entry with the ranges of check 2
(11.1, R122, R153), the POST word and the writes of the register window (11.3, R155), and decodeTableWord. Total on any
bits; a field out of its range, or an opcode outside the table, is answered none. -/

namespace Sys2Proof

namespace Decode

/-- The field of `len` bytes at byte offset `off`, least significant byte first (chapter 11). -/
def field (r : Record) (off len : Nat) : BitVec (8 * len) := r.extractLsb' (8 * off) (8 * len)

/-- A field read as a number. -/
def fieldNat (r : Record) (off len : Nat) : Nat := (field r off len).toNat

/-- The twenty-one kinds of request and command of 11.1. -/
inductive Opcode where
  | acquire | tryAcquireSet | release | renew | upgrade | downgrade | cancel | watch | unwatch | nop
  | configureClient | enableClient | disableClient | resetClient | reinstateClient | setStanding
  | forceRelease | queryLock | queryClient | setTimebase | setLimits
  deriving DecidableEq, Repr

/-- The opcode column of 11.1; none for every value the table does not define (R153). -/
def opcodeOfNat : Nat → Option Opcode
  | 0x01 => some .acquire
  | 0x02 => some .tryAcquireSet
  | 0x03 => some .release
  | 0x04 => some .renew
  | 0x05 => some .upgrade
  | 0x06 => some .downgrade
  | 0x07 => some .cancel
  | 0x08 => some .watch
  | 0x09 => some .unwatch
  | 0x0A => some .nop
  | 0x40 => some .configureClient
  | 0x41 => some .enableClient
  | 0x42 => some .disableClient
  | 0x43 => some .resetClient
  | 0x44 => some .reinstateClient
  | 0x45 => some .setStanding
  | 0x46 => some .forceRelease
  | 0x47 => some .queryLock
  | 0x48 => some .queryClient
  | 0x49 => some .setTimebase
  | 0x4A => some .setLimits
  | _ => none

/-- The opcode of a record: byte 0 (11.1). -/
def opcode (r : Record) : Option Opcode := opcodeOfNat (fieldNat r 0 1)

/-- The control commands, 0x40 to 0x4A, to which the privilege check applies (11.1, R153). -/
def Opcode.isCommand : Opcode → Bool
  | .acquire | .tryAcquireSet | .release | .renew | .upgrade | .downgrade | .cancel | .watch | .unwatch | .nop => false
  | .configureClient | .enableClient | .disableClient | .resetClient | .reinstateClient | .setStanding => true
  | .forceRelease | .queryLock | .queryClient | .setTimebase | .setLimits => true

/-- The request tag: bytes 4 to 7 of every record (11.1). -/
def tag (r : Record) : Tag := field r 4 4

/-- Modes are encoded 0 for SHARED and 1 for EXCLUSIVE; any other mode byte is out of range (11.1, R153). -/
def modeOfNat : Nat → Option Mode
  | 0 => some .shared
  | 1 => some .exclusive
  | _ => none

/-- A lock-name field; 0 is out of range (R1, R122). -/
def nameField (r : Record) (off : Nat) : Option Name :=
  let n : Name := field r off 4
  if n = 0 then none else some n

/-- A client byte; above 31 is out of range (R122). -/
def clientField (r : Record) : Option ClientId :=
  let n := fieldNat r 8 1
  if h : n < 32 then some ⟨n, h⟩ else none

/-- The fields of an ACQUIRE (R20). -/
structure AcquireFields where
  name : Name
  mode : Mode
  priority : Nat
  lease : Nat
  wait : Nat
  deriving DecidableEq, Repr

/-- ACQUIRE: a name other than 0, a mode, a priority 0 to 7 (R122 check 2). -/
def acquireFields (r : Record) : Option AcquireFields :=
  match nameField r 8, modeOfNat (fieldNat r 12 1) with
  | some name, some mode =>
    if fieldNat r 13 1 ≤ 7 then
      some { name := name, mode := mode, priority := fieldNat r 13 1, lease := fieldNat r 14 2, wait := fieldNat r 16 2 }
    else none
  | _, _ => none

/-- The fields of a TRY_ACQUIRE_SET: the used positions in order, each a name and a mode, and the lease (R36). -/
structure SetFields where
  positions : List (Name × Mode)
  lease : Nat
  deriving DecidableEq, Repr

/-- The positions from `p` on, `n` of them; none when one of their names is 0 (R153). -/
def setPositions (r : Record) (p : Nat) : Nat → Option (List (Name × Mode))
  | 0 => some []
  | n + 1 =>
    match nameField r (16 + 4 * p), setPositions r (p + 1) n with
    | some name, some rest => some ((name, if r.getLsbD (8 * 12 + p) then .exclusive else .shared) :: rest)
    | _, _ => none

/-- TRY_ACQUIRE_SET: a count of 1 to 8, and no name of 0 at a used position (R122, R153). -/
def setFields (r : Record) : Option SetFields :=
  if 1 ≤ fieldNat r 8 1 ∧ fieldNat r 8 1 ≤ 8 then
    match setPositions r 0 (fieldNat r 8 1) with
    | some ps => some { positions := ps, lease := fieldNat r 10 2 }
    | none => none
  else none

/-- The fields that name a hold: lock name and grant token (R63, R75). -/
structure HoldFields where
  name : Name
  token : Token
  deriving DecidableEq, Repr

/-- RELEASE, DOWNGRADE and FORCE_RELEASE; a token has no value outside its range (R122). -/
def holdFields (r : Record) : Option HoldFields :=
  match nameField r 8 with
  | some name => some { name := name, token := field r 12 8 }
  | none => none

/-- The fields of a RENEW. -/
structure RenewFields where
  name : Name
  token : Token
  lease : Nat
  deriving DecidableEq, Repr

/-- RENEW (11.1). -/
def renewFields (r : Record) : Option RenewFields :=
  match nameField r 8 with
  | some name => some { name := name, token := field r 12 8, lease := fieldNat r 20 2 }
  | none => none

/-- The fields of an UPGRADE. -/
structure UpgradeFields where
  name : Name
  token : Token
  wait : Nat
  deriving DecidableEq, Repr

/-- UPGRADE (11.1). -/
def upgradeFields (r : Record) : Option UpgradeFields :=
  match nameField r 8 with
  | some name => some { name := name, token := field r 12 8, wait := fieldNat r 22 2 }
  | none => none

/-- CANCEL and UNWATCH: the target tag (11.1). -/
def targetTag (r : Record) : Option Tag := some (field r 8 4)

/-- The fields of a WATCH. -/
structure WatchFields where
  code : Name
  mask : Name
  events : BitVec 5
  deriving DecidableEq, Repr

/-- WATCH: an event set with at least one of bits 0 to 4 set and none of bits 5 to 7 (R91, R153). -/
def watchFields (r : Record) : Option WatchFields :=
  if 1 ≤ fieldNat r 16 1 ∧ fieldNat r 16 1 ≤ 31 then
    some { code := field r 8 4, mask := field r 12 4, events := BitVec.ofNat 5 (fieldNat r 16 1) }
  else none

/-- NOP has no fields. -/
def nopFields (_r : Record) : Option Unit := some ()

/-- The fields of a CONFIGURE_CLIENT (R129, 11.1). -/
structure ConfigureFields where
  target : ClientId
  vector : Nat
  defaultLease : Nat
  holdQuota : Nat
  waitQuota : Nat
  sqBase : HostAddr
  cqBase : HostAddr
  sqSize : Nat
  cqSize : Nat
  windowCode : Name
  windowMask : Name
  deriving DecidableEq, Repr

/-- CONFIGURE_CLIENT: a client 0 to 31 and an interrupt vector 0 to 31; its sizes and quotas are judged by its owner
(R122, R153). -/
def configureFields (r : Record) : Option ConfigureFields :=
  match clientField r with
  | some target =>
    if fieldNat r 9 1 ≤ 31 then
      some { target := target, vector := fieldNat r 9 1, defaultLease := fieldNat r 10 2, holdQuota := fieldNat r 12 2,
             waitQuota := fieldNat r 14 1, sqBase := field r 16 8, cqBase := field r 24 8, sqSize := fieldNat r 32 2,
             cqSize := fieldNat r 34 2, windowCode := field r 36 4, windowMask := field r 40 4 }
    else none
  | none => none

/-- The fields of a SET_STANDING; a score byte has no value outside 0 to 255. -/
structure StandingFields where
  target : ClientId
  score : Nat
  deriving DecidableEq, Repr

/-- SET_STANDING (11.1). -/
def standingFields (r : Record) : Option StandingFields :=
  match clientField r with
  | some target => some { target := target, score := fieldNat r 9 1 }
  | none => none

/-- QUERY_LOCK: a lock name. -/
def queryName (r : Record) : Option Name := nameField r 8

/-- SET_TIMEBASE: a period of 1 to 65,535 (R80, R122). -/
def periodField (r : Record) : Option Nat := if fieldNat r 8 2 = 0 then none else some (fieldNat r 8 2)

/-- The fields of a SET_LIMITS (R104). -/
structure LimitFields where
  warning : Nat
  restricted : Nat
  recovery : Nat
  leaseCap : Nat
  waitCap : Nat
  deriving DecidableEq, Repr

/-- SET_LIMITS: a recovery count and a lease cap of 1 to 65,535 and a wait cap of 1 to 65,534 (R104, R122). -/
def limitFields (r : Record) : Option LimitFields :=
  if fieldNat r 10 2 = 0 ∨ fieldNat r 12 2 = 0 ∨ fieldNat r 14 2 = 0 ∨ fieldNat r 14 2 = 65535 then none
  else some { warning := fieldNat r 8 1, restricted := fieldNat r 9 1, recovery := fieldNat r 10 2,
              leaseCap := fieldNat r 12 2, waitCap := fieldNat r 14 2 }

/-- A POST word as the command it spells: bits 31 to 30 the kind, bits 28 to 24 the client, bits 11 to 0 the index.
Bits 29 and 23 to 12 are not examined (11.3, R155). -/
def postWord (w : Word) : Instr :=
  let c : ClientId := (w.extractLsb' 24 5).toFin
  let index : BitVec 12 := w.extractLsb' 0 12
  match (w.extractLsb' 30 2).toNat with
  | 0 => .submit c index
  | 1 => .consumed c index
  | 2 => .arm c index
  | _ => .postUndefinedKind c index

/-- A write at an offset of the register window as the command it spells (11.3, R155): POST and ENGINE CONTROL by their
words, FAULT CLEAR for any word, and a REGISTER_WRITE for every other write. -/
def registerWrite (offset : BitVec 12) (w : Word) : Instr :=
  if offset = 0x040 then postWord w
  else if offset = 0x088 then .faultClear w
  else if offset = 0x004 then
    if w.getLsbD 1 then .softReset (w.getLsbD 0)
    else if w.getLsbD 0 then .start
    else .registerWrite offset w
  else .registerWrite offset w

end Decode

/-- The command that a word spells by the bits of spec/opcode_table.json. No row of that table gives bits (every row's
fields are empty), so no word spells a command there: none for every word. The encodings that chapter 11 gives are read
by the functions of Decode above, where their records and register words arrive. -/
def decodeTableWord (_nbits _w : Nat) : Option Instr := none

end Sys2Proof
end

