-- ==== Sys2Proof/Machine/Operands.lean ====
section
/-! DEFINITION. The operands of the record commands: the Intake Checker's checks in their order, the restricted
adjustments, the effective lease, and the taking of a record in hand by its owner (R21, R105, R122, R123). -/

namespace Sys2Proof.Machine

/-- The effective lease (R21): a field of 0 means the client default, and an adjusted record is capped. -/
def effectiveLease (lease default : Nat) (cap : Option Nat) : Nat :=
  let l := if lease = 0 then default else lease
  match cap with
  | some c => min l c
  | none => l

/-- A wait field as it is stored: 65,535 is indefinite (R22). -/
def storedWait (wait : Nat) : Option Nat := if wait = Config.waitWithoutLimit then none else some wait

/-- A lease field of a restricted client's record: capped, and 0 left as 0 (R105). -/
def cappedLease (l : Limits) (lease : Nat) : Nat := if lease = 0 then 0 else min lease l.leaseCap

/-- A wait field of a restricted client's record: 65,535, or above the cap, becomes the cap (R105). -/
def cappedWait (l : Limits) (wait : Nat) : Nat :=
  if wait = Config.waitWithoutLimit ∨ l.waitCap < wait then l.waitCap else wait

/-- The adjustments of an ACQUIRE (R105). -/
def adjustAcquire (l : Limits) (f : Decode.AcquireFields) : Decode.AcquireFields :=
  { f with priority := 7, lease := cappedLease l f.lease, wait := cappedWait l f.wait }

/-- The adjustments of a TRY_ACQUIRE_SET (R105). -/
def adjustSet (l : Limits) (f : Decode.SetFields) : Decode.SetFields := { f with lease := cappedLease l f.lease }

/-- The adjustments of a RENEW (R105). -/
def adjustRenew (l : Limits) (f : Decode.RenewFields) : Decode.RenewFields := { f with lease := cappedLease l f.lease }

/-- The adjustments of an UPGRADE (R105). -/
def adjustUpgrade (l : Limits) (f : Decode.UpgradeFields) : Decode.UpgradeFields := { f with wait := cappedWait l f.wait }

/-- A record without the adjusted fields passes unchanged (R105). -/
def noAdjust {α : Type} (_l : Limits) (f : α) : α := f

/-- A record without a lock name of check 4. -/
def noNames {α : Type} (_f : α) : List Name := []

/-- What intake decides of a record whose opcode check 1 has accepted (R122). -/
inductive Checked (α : Type) where
  | refused (status : Status) (charge : Nat)
  | passed (fields : α)

/-- Checks 2, 3 and 4, in their order (R122). -/
def intakeCheck {α : Type} (s : State) (q : ClientId) (op : Decode.Opcode) (fields : Option α) (names : α → List Name) :
    Checked α :=
  match fields with
  | none => .refused .badRequest Config.chargeBadRequest
  | some f =>
    if op.isCommand ∧ q ≠ 0 then .refused .privilege Config.chargePrivilege
    else if (names f).all (fun n => (s.client q).admits n) then .passed f
    else .refused .nameDenied Config.chargeNameDenied

/-- The record of queue pair `q` as its owner, or the Intake Checker that refuses it, knows it (R105, R123). -/
def State.takenAs (s : State) (q : ClientId) (r : Record) : Taken :=
  { client := q, tag := Decode.tag r, index := (s.ring q).sqConsumer,
    cap := if (s.standing q).grade = .restricted then some s.limits.leaseCap else none }

/-- A refusal at intake: the fetch state returns to idle, the charge is handed on, and the refusal is answered (R122). -/
def State.refuseAtIntake (s : State) (k : Taken) (status : Status) (charge : Nat) : State :=
  ((s.idleFetch k.client).handCharge k.client charge).answer k status

/-- The record in hand is checked, adjusted for a RESTRICTED client, and taken by its owner, whereupon the fetch state returns
to idle (R122, R123, R105). -/
def State.intake {α : Type} (s : State) (q : ClientId) (op : Decode.Opcode) (r : Record) (fields : Option α)
    (names : α → List Name) (adjust : Limits → α → α) (owner : Taken → α → State → State) : State :=
  let k := s.takenAs q r
  match intakeCheck s q op fields names with
  | .refused status charge => s.refuseAtIntake k status charge
  | .passed f => owner k (if k.cap.isSome then adjust s.limits f else f) (s.idleFetch q)

/-- The taking of the record in hand of queue pair `q`, when it is of kind `op`; none when there is no such record. -/
def State.takeRecord {α : Type} (s : State) (q : ClientId) (op : Decode.Opcode) (read : Record → Option α)
    (names : α → List Name) (adjust : Limits → α → α) (owner : Taken → α → State → State) : Option State :=
  match (s.ring q).fetch with
  | .inHand r => if Decode.opcode r = some op then some (s.intake q op r (read r) names adjust owner) else none
  | _ => none

end Sys2Proof.Machine
end

