-- ==== Sys2Proof/Machine/Acquire.lean ====
section
/-! DEFINITION. Acquiring locks: ACQUIRE and TRY_ACQUIRE_SET (chapter 2). -/

namespace Sys2Proof.Machine

/-- An immediate grant on an entry, resident or fresh: hold, watch event, in that order (R27, R39). -/
def AtEntry.grantAtOnce (w : AtEntry) (c : ClientId) (m : Mode) (lease : Nat) (tag : Tag) : AtEntry :=
  (w.grantHold c m lease tag).onState (fun s => s.emitGranted w.entry.name c w.state.token m)

/-- The grant of a name: on its resident entry, or on a new one, for which a free entry is used (R10, R27, R39). -/
def State.grantName (s : State) (c : ClientId) (name : Name) (m : Mode) (lease : Nat) (tag : Tag) : State :=
  match s.entry? name with
  | some e =>
    let w := AtEntry.grantAtOnce { entry := e, state := s } c m lease tag
    w.state.storeEntry w.entry
  | none =>
    let w := AtEntry.grantAtOnce { entry := LockEntry.fresh name m, state := { s with freeEntries := s.freeEntries - 1 } }
      c m lease tag
    w.state.storeEntry w.entry

/-- The waiter record of an ACQUIRE that waits (R31). -/
def newWaiter (k : Taken) (f : Decode.AcquireFields) (lease : Nat) (order : BitVec 64) (e : LockEntry) : Waiter :=
  { client := k.client, tag := k.tag, order := order, mode := f.mode, priority := f.priority, wait := storedWait f.wait,
    lease := lease, waited := 0, report := e.report (e.aheadOf f.priority), index := k.index, expiryRaised := false }

/-- A waiter is inserted after the last waiter whose priority is equal to or more urgent than its own (R31, R43). -/
def insertWaiter (x : Waiter) : List Waiter → List Waiter
  | [] => [x]
  | y :: ys => if y.priority ≤ x.priority then y :: insertWaiter x ys else x :: y :: ys

/-- The insertion of a waiter: a record of the pool, the wait count and the contention count (R31), and the grant pass when
it stands at the head (R32). -/
def AtEntry.insert (w : AtEntry) (x : Waiter) : AtEntry :=
  let w1 := (w.onEntry (fun e => { e.contend with waiters := insertWaiter x e.waiters })).onState
    (fun s => ({ s with poolFree := s.poolFree - 1 }).addWait x.client)
  if w1.entry.headIs x.client then w1.grantPass else w1

/-- Steps 5 to 9 of R23 at a resident entry on which the request is not grantable at once. -/
def acquireBlocked (k : Taken) (f : Decode.AcquireFields) (lease : Nat) (e : LockEntry) (s : State) : State :=
  if f.wait = 0 then
    (s.storeEntry e.contend).answerWith k .busy (.busy (e.report (e.aheadOf f.priority)) 0)
  else if s.atWaitQuota k.client then (s.storeEntry e.contend).answer k .quotaWaits
  else if s.poolFree = 0 then (s.storeEntry e.contend).answer k .poolEmpty
  else (AtEntry.insert { entry := e, state := s } (newWaiter k f lease (s.account k.client).requests e)).close

/-- The response of an immediate grant (R27). -/
def State.answerGranted (s : State) (k : Taken) (first : Token) (lease count : Nat) : State :=
  s.answerWith k .granted (.granted first lease 0 none count)

/-- A taken ACQUIRE, by the check order of R23. -/
def acquireTaken (k : Taken) (f : Decode.AcquireFields) (s0 : State) : State :=
  let s := s0.countRequest k.client
  let lease := effectiveLease f.lease (s.client k.client).config.defaultLease k.cap
  let grant := (s.grantName k.client f.name f.mode lease k.tag).answerGranted k s.token lease 1
  match s.entry? f.name with
  | some e =>
    if (e.holderOf? k.client).isSome then s.answer k .alreadyHeld
    else if (e.waiterOf? k.client).isSome then s.answer k .duplicateWait
    else if s.atHoldQuota k.client then s.answer k .quotaHolds
    else if e.grantableNow f.mode then grant
    else acquireBlocked k f lease e s
  | none =>
    if s.atHoldQuota k.client then s.answer k .quotaHolds
    else if s.freeEntries = 0 then s.answer k .tableFull
    else grant

/-- ACQUIRE (R20 to R35). -/
def execAcquire (q : ClientId) (s : State) : Host.Outcome State Fault Refusal :=
  takeLockEvent s (fun s1 =>
    s1.takeRecord q .acquire Decode.acquireFields (fun f => [f.name]) adjustAcquire acquireTaken)

/-! ## TRY_ACQUIRE_SET (2.7) -/

/-- Two positions carry the same name (R37 step 1). -/
def repeatsName : List (Name × Mode) → Bool
  | [] => false
  | p :: ps => ps.any (fun p' => p'.1 == p.1) || repeatsName ps

/-- The refusal of the lowest position at which the client holds or waits (R37 step 2). -/
def State.setConflict (s : State) (c : ClientId) : List (Name × Mode) → Option Status
  | [] => none
  | p :: ps =>
    match s.entry? p.1 with
    | some e =>
      if (e.holderOf? c).isSome then some .alreadyHeld
      else if (e.waiterOf? c).isSome then some .duplicateWait
      else s.setConflict c ps
    | none => s.setConflict c ps

/-- The name of a position is absent. -/
def State.absent (s : State) (p : Name × Mode) : Bool := (s.entry? p.1).isNone

/-- The position is marked: its name is resident and not grantable at once (R38). -/
def State.blocks (s : State) (p : Name × Mode) : Bool :=
  match s.entry? p.1 with
  | some e => !e.grantableNow p.2
  | none => false

/-- The bitmap of marked positions, position 0 in bit 0 (R38). -/
def State.blockedBitmap (s : State) : List (Name × Mode) → Nat
  | [] => 0
  | p :: ps => (if s.blocks p then 1 else 0) + 2 * s.blockedBitmap ps

/-- The contention report of the lowest marked position, with all of its waiters ahead (R38). -/
def State.setReport (s : State) (ps : List (Name × Mode)) : Report :=
  match (ps.find? s.blocks).bind (fun p => s.entry? p.1) with
  | some e => e.report e.waiters.length
  | none => { holder := 0, holders := 0, ahead := 0, mode := .shared }

/-- The contention count of one resident entry rises by 1 (R13). -/
def State.contendAt (s : State) (name : Name) : State :=
  match s.entry? name with
  | some e => s.storeEntry e.contend
  | none => s

/-- The contention count of each marked position's entry rises by 1 (R38). -/
def State.contendAll (s : State) (ps : List (Name × Mode)) : State := ps.foldl (fun t p => t.contendAt p.1) s

/-- Every name is granted, in position order (R39). -/
def State.grantAll (s : State) (c : ClientId) (ps : List (Name × Mode)) (lease : Nat) (tag : Tag) : State :=
  ps.foldl (fun t p => t.grantName c p.1 p.2 lease tag) s

/-- A taken TRY_ACQUIRE_SET, by the check order of R37. -/
def setTaken (k : Taken) (f : Decode.SetFields) (s : State) : State :=
  let lease := effectiveLease f.lease (s.client k.client).config.defaultLease k.cap
  if repeatsName f.positions then (s.handCharge k.client Config.chargeBadRequest).answer k .badRequest
  else
    match s.setConflict k.client f.positions with
    | some status => s.answer k status
    | none =>
      if (s.client k.client).config.holdQuota < (s.account k.client).holds.length + f.positions.length then
        s.answer k .quotaHolds
      else if s.freeEntries < (f.positions.filter s.absent).length then s.answer k .tableFull
      else if f.positions.any s.blocks then
        (s.contendAll (f.positions.filter s.blocks)).answerWith k .busy
          (.busy (s.setReport f.positions) (s.blockedBitmap f.positions))
      else (s.grantAll k.client f.positions lease k.tag).answerGranted k s.token lease f.positions.length

/-- TRY_ACQUIRE_SET (R36 to R39). -/
def execTryAcquireSet (q : ClientId) (s : State) : Host.Outcome State Fault Refusal :=
  takeLockEvent s (fun s1 =>
    s1.takeRecord q .tryAcquireSet Decode.setFields (fun f => f.positions.map Prod.fst) adjustSet setTaken)

end Sys2Proof.Machine
end

