-- ==== Sys2Proof/Machine/WatchFilter.lean ====
section
/-! DEFINITION. The Watch Filter: WATCH, UNWATCH and the matching of watch events (chapter 6). -/

namespace Sys2Proof.Machine

/-- The watches a client owns (R88). -/
def State.watchCount (s : State) (c : ClientId) : Nat := (s.watches.filter (fun w => w.owner == c)).length

/-- The client owns a watch with this tag (R91, R92). -/
def State.ownsWatch (s : State) (c : ClientId) (t : Tag) : Bool := s.watches.any (fun w => w.owner == c && w.tag == t)

/-- The watch that a WATCH places (R91). -/
def newWatch (k : Taken) (f : Decode.WatchFields) : Watch :=
  { owner := k.client, tag := k.tag, code := f.code, mask := f.mask, events := f.events }

/-- A taken WATCH, by the check order of R91; a placed watch joins the end of the placement order (R88). -/
def watchTaken (k : Taken) (f : Decode.WatchFields) (s : State) : State :=
  if s.ownsWatch k.client k.tag then s.answer k .duplicateWait
  else if Config.watchLimit ≤ s.watchCount k.client then s.answer k .quotaWatches
  else if Config.watchEntries ≤ s.watches.length then s.answer k .tableFull
  else
    ({ s with watches := s.watches ++ [newWatch k f] }).answer k .ok

/-- WATCH (R91). -/
def execWatch (q : ClientId) (s : State) : Host.Outcome State Fault Refusal :=
  takeEvent s (fun s1 => s1.takeRecord q .watch Decode.watchFields noNames noAdjust watchTaken)

/-- A taken UNWATCH (R92). -/
def unwatchTaken (k : Taken) (t : Tag) (s : State) : State :=
  if s.ownsWatch k.client t then
    ({ s with watches := s.watches.filter (fun w => !(w.owner == k.client && w.tag == t)) }).answer k .ok
  else s.answer k .notFound

/-- UNWATCH (R92). -/
def execUnwatch (q : ClientId) (s : State) : Host.Outcome State Fault Refusal :=
  takeEvent s (fun s1 => s1.takeRecord q .unwatch Decode.targetTag noNames noAdjust unwatchTaken)

/-- The watch matches the event: its set contains the kind, it covers the name, and the name lies in its owner's window
(R89, R93). -/
def Watch.covers (w : Watch) (name : Name) : Bool := Machine.covers w.code w.mask name

@[inherit_doc Watch.covers] def State.watchMatches (s : State) (ev : WatchEvent) (w : Watch) : Bool :=
  w.events.getLsbD (eventCode ev.kind) && w.covers ev.name && (s.client w.owner).admits ev.name

/-- The WATCH notice of a watch for an event (R94). -/
def Watch.notice (w : Watch) (ev : WatchEvent) : Notice := .watch w.tag ev.kind ev.name ev.client ev.token ev.mode

/-- The notices of one watch event, in placement order (R93). -/
def State.matchAll (s : State) (ev : WatchEvent) (ws : List Watch) : State :=
  ws.foldl (fun t w => if t.watchMatches ev w then t.notify w.owner (w.notice ev) else t) s

/-- The oldest watch event in transit for a lock, when it is the next of its lock event, and what is left in transit. Events at
one lock are taken in order, the events of one lock event in theirs, and others in either order (R93). -/
def takeWatchEvent (name : Name) : List (List WatchEvent) → Option (WatchEvent × List (List WatchEvent))
  | [] => none
  | [] :: bs => takeWatchEvent name bs
  | (ev :: evs) :: bs =>
    if ev.name = name then some (ev, if evs = [] then bs else evs :: bs)
    else if evs.any (fun x => x.name == name) then none
    else (takeWatchEvent name bs).map (fun p => (p.1, (ev :: evs) :: p.2))

/-- The Watch Filter takes a watch event (R93). -/
def matchNext (name : Name) (s : State) : Option State :=
  match takeWatchEvent name s.watchEvents with
  | some (ev, rest) => some ((({ s with watchEvents := rest }).matchAll ev s.watches))
  | none => none

/-- WATCH_EVENT_MATCH (R93). -/
def execWatchEventMatch (name : Name) (s : State) : Host.Outcome State Fault Refusal := takeEvent s (matchNext name)

end Sys2Proof.Machine
end

