-- ==== Sys2Proof/Machine/Control.lean ====
section
/-! DEFINITION. The Control Command Unit: CONFIGURE_CLIENT and its ring swap, ENABLE_CLIENT, DISABLE_CLIENT, RESET_CLIENT,
REINSTATE_CLIENT and QUERY_CLIENT (9.3, R109, R112, R139). -/

namespace Sys2Proof.Machine

/-- A command that names a client: client 0 is BAD_REQUEST and a client under teardown TEARDOWN_PENDING, before the command's
own conditions (R130, R133). -/
def State.onClient (s : State) (k : Taken) (target : ClientId) (body : State → State) : State :=
  if target = 0 then s.answer k .badRequest
  else if (s.client target).teardown.isSome then s.answer k .teardownPending
  else body s

/-- A command whose answer waits, as the client record names it (R129). -/
def Taken.ref (k : Taken) : CommandRef := { tag := k.tag, index := k.index }

/-- The answer to a command that waited (R133): a response on the control ring. -/
def State.answerRef (s : State) (r : CommandRef) (status : Status) : State :=
  s.respond 0 { status := status, tag := r.tag, index := r.index, body := .empty }

/-! ## CONFIGURE_CLIENT (R134) -/

/-- A ring size is a power of two from 16 to 4,096 (R114, R134, R148). -/
def validSize (n : Nat) : Bool := [16, 32, 64, 128, 256, 512, 1024, 2048, 4096].contains n

/-- A ring base is a multiple of 4,096 bytes: its low 12 bits are 0 (R134, R155). -/
def validBase (a : HostAddr) : Bool := a.extractLsb' 0 12 == 0

/-- A client that CONFIGURE_CLIENT accepts: UNCONFIGURED, or DISABLED with no holds, waiters, pending upgrades or watches and
with its fetch state idle (R134 step 3). -/
def State.configurable (s : State) (c : ClientId) : Bool :=
  (s.client c).state == .unconfigured ||
    ((s.client c).state == .disabled && (s.account c).holds.isEmpty && (s.account c).waits == 0 &&
      s.watchCount c == 0 && (s.ring c).fetch == .idle)

/-- The configuration's own conditions (R134 step 4). -/
def validConfig (f : Decode.ConfigureFields) : Bool :=
  validBase f.sqBase && validBase f.cqBase && validSize f.sqSize && validSize f.cqSize && f.holdQuota ≤ 256 &&
    f.waitQuota ≤ 64

/-- The configuration as it is stored, 0 replaced by the defaults (R134). -/
def storedConfig (f : Decode.ConfigureFields) : ClientConfig :=
  { vector := f.vector, windowCode := f.windowCode, windowMask := f.windowMask,
    defaultLease := if f.defaultLease = 0 then 1000 else f.defaultLease,
    holdQuota := if f.holdQuota = 0 then 32 else f.holdQuota, waitQuota := if f.waitQuota = 0 then 8 else f.waitQuota }

/-- The rings a CONFIGURE_CLIENT gives. -/
def configuredPlace (f : Decode.ConfigureFields) : RingPlace :=
  { sqBase := f.sqBase, sqSize := f.sqSize, cqBase := f.cqBase, cqSize := f.cqSize }

/-- The swap that an accepted CONFIGURE_CLIENT leaves waiting. With another already waiting, the configuration to go back to
is still the one before both, and both answers wait (log entry 10). -/
def ClientRecord.swapWith (r : ClientRecord) (place : RingPlace) (ref : CommandRef) : RingSwap :=
  match r.swap with
  | some w => { place := place, old := w.old, waiting := w.waiting ++ [ref] }
  | none => { place := place, old := r.config, waiting := [ref] }

/-- A taken CONFIGURE_CLIENT (R134). -/
def configureTaken (k : Taken) (f : Decode.ConfigureFields) (s : State) : State :=
  s.onClient k f.target (fun t =>
    if !t.configurable f.target then t.answer k .clientBusy
    else if !validConfig f then t.answer k .badConfig
    else
      t.setClient f.target { t.client f.target with
        state := .disabled, config := storedConfig f,
        swap := some ((t.client f.target).swapWith (configuredPlace f) k.ref) })

/-- CONFIGURE_CLIENT (R134). -/
def execConfigureClient (q : ClientId) (s : State) : Host.Outcome State Fault Refusal :=
  takeEvent s (fun s1 => s1.takeRecord q .configureClient Decode.configureFields noNames noAdjust configureTaken)

/-- The context that replaces a client's rings: the reset values of R114 with the new bases and sizes (R134). A client that no
ENABLE_CLIENT has reached while its swap waited has no reservation and no fetch, so that these are reset values too. For one that
was fetched meanwhile the reservations stay, for its waits are still owed their responses (R115, R124), a record in hand stays in
hand, and a read in flight keeps its index and is discarded when it returns: DESIGN CHOICE (log entry 10). -/
def RingContext.swapped (r : RingContext) (place : RingPlace) : RingContext :=
  { RingContext.reset place with reserved := r.reserved, fetch := r.fetch.abandon }

/-- The ring swap: once no write to the old completion ring is in flight, the context takes its new values, and then the OK is
handed on (R134, R127). It waits also while the reservations of a client enabled meanwhile exceed the new ring (R115): DESIGN
CHOICE (log entry 10). -/
def swapRings (c : ClientId) (s : State) : Option State :=
  match (s.client c).swap with
  | none => none
  | some w =>
    if (s.ring c).writing.isSome ∨ w.place.cqSize < (s.ring c).reserved then none
    else
      some (w.waiting.foldl (fun t ref => t.answerRef ref .ok)
        ((s.setRing c ((s.ring c).swapped w.place)).setClient c { s.client c with swap := none }))

/-- CONFIGURE_CLIENT_RING_SWAP (R134). -/
def execConfigureClientRingSwap (c : ClientId) (s : State) : Host.Outcome State Fault Refusal :=
  takeEvent s (swapRings c)

/-! ## ENABLE_CLIENT, DISABLE_CLIENT, RESET_CLIENT, REINSTATE_CLIENT -/

/-- A taken ENABLE_CLIENT at a DISABLED client, decided on its standing (R112, R135). -/
def enableTaken (k : Taken) (target : ClientId) (s : State) : State :=
  s.onClient k target (fun t =>
    let r := t.client target
    if r.state ≠ .disabled then t.answer k .wrongState
    else if r.recoveryPending then
      (t.setClient target { r with state := .recovering, recoveryPending := false }).answer k .ok
    else if (t.standing target).score = Config.topScore then t.isolate target (some k.ref)
    else (t.setClient target { r with state := .active }).answer k .ok)

/-- ENABLE_CLIENT (R135). -/
def execEnableClient (q : ClientId) (s : State) : Host.Outcome State Fault Refusal :=
  takeEvent s (fun s1 => s1.takeRecord q .enableClient Decode.clientField noNames noAdjust enableTaken)

/-- A taken DISABLE_CLIENT: at an ACTIVE client, DISABLED, its read in flight lost; at a RECOVERING client, DISABLED with the recovery remaining frozen
and the recovery marked pending (R136). -/
def disableTaken (k : Taken) (target : ClientId) (s : State) : State :=
  s.onClient k target (fun t =>
    let r := t.client target
    if r.state = .active then ((t.setClient target { r with state := .disabled }).abandonRead target).answer k .ok
    else if r.state = .recovering then
      ((t.setClient target { r with state := .disabled, recoveryPending := true }).forgetClient target).answer k .ok
    else t.answer k .wrongState)

/-- DISABLE_CLIENT (R136). -/
def execDisableClient (q : ClientId) (s : State) : Host.Outcome State Fault Refusal :=
  takeEvent s (fun s1 => s1.takeRecord q .disableClient Decode.clientField noNames noAdjust disableTaken)

/-- The client's state when its reset teardown begins: a HALTED client stays HALTED (R137). -/
def resetState : ClientState → ClientState
  | .halted => .halted
  | .unconfigured => .unconfigured
  | .disabled | .active | .isolated | .recovering => .disabled

/-- A taken RESET_CLIENT: its teardown begins, and its answer waits (R137). -/
def resetTaken (k : Taken) (target : ClientId) (s : State) : State :=
  s.onClient k target (fun t =>
    let r := t.client target
    if r.state = .unconfigured then t.answer k .wrongState
    else
      (((t.setClient target { r with
        state := resetState r.state, teardown := some { cause := .reset, waiting := some k.ref },
        recoveryPending := false }).setRecovery target 0).forgetClient target).dropWaiting target)

/-- RESET_CLIENT (R137). -/
def execResetClient (q : ClientId) (s : State) : Host.Outcome State Fault Refusal :=
  takeEvent s (fun s1 => s1.takeRecord q .resetClient Decode.clientField noNames noAdjust resetTaken)

/-- A taken REINSTATE_CLIENT: an ISOLATED client becomes RECOVERING with the recovery count in force (R109). -/
def reinstateTaken (k : Taken) (target : ClientId) (s : State) : State :=
  s.onClient k target (fun t =>
    let r := t.client target
    if r.state ≠ .isolated then t.answer k .wrongState
    else ((t.setClient target { r with state := .recovering }).setRecovery target t.limits.recovery).answer k .ok)

/-- REINSTATE_CLIENT (R109). -/
def execReinstateClient (q : ClientId) (s : State) : Host.Outcome State Fault Refusal :=
  takeEvent s (fun s1 => s1.takeRecord q .reinstateClient Decode.clientField noNames noAdjust reinstateTaken)

/-! ## QUERY_CLIENT (R139) -/

/-- The snapshot of a client (R139). -/
def State.clientSnapshot (s : State) (c : ClientId) : ClientSnapshot :=
  { state := (s.client c).state, score := (s.standing c).score, grade := (s.standing c).grade,
    teardown := (s.client c).teardown.isSome, holds := (s.account c).holds.length, waits := (s.account c).waits,
    watches := s.watchCount c, reservations := (s.ring c).reserved, lost := (s.ring c).lost, recovery := s.recovery c }

/-- A taken QUERY_CLIENT; it may name client 0 (R130, R139). -/
def queryClientTaken (k : Taken) (target : ClientId) (s : State) : State :=
  s.answerWith k .ok (.client (s.clientSnapshot target))

/-- QUERY_CLIENT (R139). -/
def execQueryClient (q : ClientId) (s : State) : Host.Outcome State Fault Refusal :=
  takeEvent s (fun s1 => s1.takeRecord q .queryClient Decode.clientField noNames noAdjust queryClientTaken)

end Sys2Proof.Machine
end

