-- ==== Sys2Proof/Machine/Queues.lean ====
section
/-! DEFINITION. The Queue Unit: POST words, the fetch arbiter, reads and writes of the rings, NOP, and records of an unknown
opcode (chapter 8, R153). -/

namespace Sys2Proof.Machine

/-! ## POST (8.2, R155) -/

/-- A POST word that names an UNCONFIGURED client is dropped (R116). -/
def postTaken (c : ClientId) (k : State → Option State) (s : State) : Option State :=
  if (s.client c).state = .unconfigured then none else k s

/-- A SUBMIT with an index below the submission ring size sets the last posted producer index; any other is dropped
(R116). Between the CONFIGURE_CLIENT of an UNCONFIGURED client and its ring swap the manual gives no ring size: the size read
is 0, so every SUBMIT is dropped. DESIGN CHOICE (log entry 33). -/
def submitPost (c : ClientId) (index : BitVec 12) (s : State) : Option State :=
  if index.toNat < (s.ring c).place.sqSize then some (s.setRing c { s.ring c with sqPosted := index.toNat }) else none

/-- SUBMIT (R116). -/
def execSubmit (c : ClientId) (index : BitVec 12) (s : State) : Host.Outcome State Fault Refusal :=
  takeEvent s (postTaken c (submitPost c index))

/-- A CONSUMED moves the consumed head and drains the list into the freed slots, or, when its head lies outside the allowed
range, is ignored and charged (R117). Between the CONFIGURE_CLIENT of an UNCONFIGURED client and its ring swap the manual
gives no ring size: the size read is 0, so every CONSUMED is ignored and charged. DESIGN CHOICE (log entry 33). -/
def consumedPost (c : ClientId) (index : BitVec 12) (s : State) : Option State :=
  let r := s.ring c
  let d := ringDistance r.place.cqSize r.consumedHead index.toNat
  if index.toNat < r.place.cqSize ∧ d ≤ r.occupied then
    some ((s.setRing c { r with consumedHead := index.toNat, occupied := r.occupied - d }).drain c)
  else some (s.handCharge c Config.chargeBadConsumed)

/-- CONSUMED (R117). -/
def execConsumed (c : ClientId) (index : BitVec 12) (s : State) : Host.Outcome State Fault Refusal :=
  takeEvent s (postTaken c (consumedPost c index))

/-- An ARM sets the interrupt armed flag (R118), which a ring swap that waits will clear (R134; log entry 33). -/
def armPost (c : ClientId) (s : State) : Option State := some (s.setRing c { s.ring c with armed := true })

/-- ARM (R118); the index is not examined (R155). -/
def execArm (c : ClientId) (_index : BitVec 12) (s : State) : Host.Outcome State Fault Refusal :=
  takeEvent s (postTaken c (armPost c))

/-- POST_UNDEFINED_KIND (R155): dropped, without change and without charge. -/
def execPostUndefinedKind (_c : ClientId) (_index : BitVec 12) (s : State) : Host.Outcome State Fault Refusal := .next s

/-! ## The fetch arbiter (R119, R120) -/

/-- A client is eligible for a fetch: the five conditions of R119 on its record and its rings. That the engine is RUNNING is
asked where the event is taken. -/
def State.eligible (s : State) (c : ClientId) : Bool :=
  (s.client c).state == .active && (s.client c).teardown.isNone && 1 ≤ (s.ring c).work && 1 ≤ (s.ring c).free &&
    (s.ring c).fetch == .idle

/-- The read path is free: no read is in flight (R120, R121). -/
def State.readPathFree (s : State) : Bool := Config.allClients.all (fun c => !(s.ring c).fetch.isFetching)

/-- Clients 1 to 31 in the order of the search: upward from the client after the round-robin position, wrapping from 31 to 1
(R120). -/
def searchOrder (position : Nat) : List ClientId :=
  (List.range 31).map (fun k => Fin.ofNat 32 ((position + k) % 31 + 1))

/-- The client to which the arbiter grants the path: client 0 when it is eligible, otherwise the first eligible client of the
search (R120). -/
def State.arbiter (s : State) : Option ClientId :=
  if s.eligible 0 then some 0 else (searchOrder s.roundRobin).find? s.eligible

/-- A fetch begins: one reservation, and the read of the entry at the consumer index (R121). -/
def State.beginFetch (s : State) (c : ClientId) : State :=
  (s.setRing c { s.ring c with reserved := (s.ring c).reserved + 1, fetch := .fetching (s.ring c).sqConsumer false }).put
    (.readBegin c (entryAddress (s.ring c).place.sqBase 64 (s.ring c).sqConsumer))

/-- The grant of the read path (R120): a grant to client 0 leaves the round-robin position as it was. -/
def fetchNext (s : State) : Option State :=
  if s.readPathFree then
    match s.arbiter with
    | some c => some (({ s with roundRobin := if c = 0 then s.roundRobin else c.val }).beginFetch c)
    | none => none
  else none

/-- FETCH_GRANT (R120). -/
def execFetchGrant (s : State) : Host.Outcome State Fault Refusal := takeEvent s fetchNext

/-- A read returns without error (R121): in hand for a client still ACTIVE and not under teardown, discarded for one that has
left ACTIVE since the read began, even if it is ACTIVE again (R35, R136), or that is under teardown. -/
def returnRead (c : ClientId) (bytes : Record) (s : State) : Option State :=
  match (s.ring c).fetch with
  | .fetching _ discard =>
    if discard = false ∧ (s.client c).state = .active ∧ (s.client c).teardown = none then
      some (s.setRing c { s.ring c with
        sqConsumer := ((s.ring c).sqConsumer + 1) % (s.ring c).place.sqSize, fetch := .inHand bytes })
    else some ((s.idleFetch c).releaseReservation c)
  | .idle | .inHand _ => none

/-- FETCH_READ_RETURN (R121). -/
def execFetchReadReturn (access : Access) (bytes : Record) (s : State) : Host.Outcome State Fault Refusal :=
  takeReport access.epoch s (takeEvent s (returnRead access.client bytes))

/-! ## Completion writes (R125) -/

/-- The context after a write to its ring has ended without error: producer index, phase at the wrap, counts (R125). -/
def RingContext.wrote (r : RingContext) : RingContext :=
  let p := (r.cqProducer + 1) % r.place.cqSize
  { r with cqProducer := p, phase := if p = 0 then !r.phase else r.phase, occupied := r.occupied + 1,
           reserved := r.reserved - 1, writing := none }

/-- The interrupt message of a write's end, when the flag is armed (R118). -/
def State.interruptIfArmed (s : State) (c : ClientId) : State :=
  if (s.ring c).armed then
    (s.setRing c { s.ring c with armed := false }).put (.interrupt c (s.client c).config.vector)
  else s

/-- A completion write ends without error, and the next write of the ring begins unless nothing is written to the client
(R125, R127). -/
def endWrite (c : ClientId) (s : State) : Option State :=
  if (s.ring c).writing.isSome then
    let s1 := (s.setRing c (s.ring c).wrote).interruptIfArmed c
    some (if (s1.client c).muted then s1 else s1.startWrite c)
  else none

/-- COMPLETION_WRITE_END (R125). -/
def execCompletionWriteEnd (access : Access) (s : State) : Host.Outcome State Fault Refusal :=
  takeReport access.epoch s (takeEvent s (endWrite access.client))

/-! ## Records the Queue Unit and the Intake Checker take themselves -/

/-- A taken NOP is answered OK (R123). -/
def nopTaken (k : Taken) (_f : Unit) (s : State) : State := s.answer k .ok

/-- NOP (R123). -/
def execNop (q : ClientId) (s : State) : Host.Outcome State Fault Refusal :=
  takeEvent s (fun s1 => s1.takeRecord q .nop Decode.nopFields noNames noAdjust nopTaken)

/-- A record in hand whose opcode is not in the table of 11.1 fails check 1 (R122, R153). -/
def refuseUnknown (q : ClientId) (s : State) : Option State :=
  match (s.ring q).fetch with
  | .inHand r =>
    if Decode.opcode r = none then some (s.refuseAtIntake (s.takenAs q r) .badRequest Config.chargeBadRequest) else none
  | _ => none

/-- UNKNOWN_OPCODE (R153). -/
def execUnknownOpcode (q : ClientId) (s : State) : Host.Outcome State Fault Refusal := takeEvent s (refuseUnknown q)

end Sys2Proof.Machine
end

