-- ==== Sys2Proof/Machine/Faults.lean ====
section
/-! DEFINITION. Host link faults, the fault capture, the engine state, the register window's writes and the engine resets
(chapter 10, R155). -/

namespace Sys2Proof.Machine

/-! ## The fault capture (R147) -/

/-- A fault is offered: an empty latch is filled, a full one is kept and the overflow count rises, saturating at 255. -/
def Capture.offer (c : Capture) (f : FaultInfo) : Capture :=
  match c.latch with
  | none => { c with latch := some f }
  | some _ => { c with overflow := if c.overflow < Config.overflowMax then c.overflow + 1 else c.overflow }

@[inherit_doc Capture.offer] def State.offerFault (s : State) (f : FaultInfo) : State :=
  { s with capture := s.capture.offer f }

/-- FAULT_CLEAR (R147): the latch is emptied and the overflow count is 0, in every engine state. -/
def clearCapture (s : State) : State := { s with capture := Capture.empty }

/-- FAULT_CLEAR (R147): any value written. -/
def execFaultClear (_value : Word) (s : State) : Host.Outcome State Fault Refusal := .next (clearCapture s)

/-! ## Faults on a client ring (R145, R146) -/

/-- The client becomes HALTED; a teardown of cause halt begins unless one is in progress, the records behind a write in flight
are not written, and the client leaves RECOVERING (R146, R127, R140). -/
def State.haltClient (s : State) (c : ClientId) : State :=
  let r := s.client c
  let t := match r.teardown with
    | some t => some t
    | none => some { cause := .halt, waiting := none }
  ((s.setClient c { r with state := .halted, teardown := t }).forgetClient c).dropWaiting c

/-- A host link fault on a ring of clients 1 to 31, after its access has been settled (R146): offered, then the client, then
the CLIENT_FAULT notice; an already HALTED client stays as it is and brings no notice. -/
def State.clientFault (s : State) (f : FaultInfo) : State :=
  let s1 := s.offerFault f
  if (s1.client f.client).state = .halted then s1
  else (s1.haltClient f.client).notify 0 (.clientFault f.client f.ring f.kind f.index)

/-- A failed read settled: reservation released, fetch state idle, consumer index unmoved (R145). -/
def State.settleRead (s : State) (c : ClientId) : State := (s.idleFetch c).releaseReservation c

/-- A failed write settled: its record is lost and its reservation released; producer index and phase do not move, and the
records behind it do not begin (R125, R145). What the drain of the freed slot hands on stands behind them (log entry 11). -/
def State.settleWrite (s : State) (c : ClientId) : State :=
  let s1 := s.releaseReservation c
  s1.setRing c { s1.ring c with writing := none }

/-- A CONFIGURE_CLIENT that waited for the write that failed: the configuration goes back and the command is answered
CLIENT_BUSY (R134). -/
def State.failSwap (s : State) (c : ClientId) : State :=
  match (s.client c).swap with
  | none => s
  | some w =>
    w.waiting.foldl (fun t ref => t.answerRef ref .clientBusy)
      (s.setClient c { s.client c with config := w.old, swap := none })

/-- In HALTED a fault of an access in flight is offered to the capture and changes nothing else (R147, R149). -/
def offerOnly (s : State) (f : FaultInfo) : State := s.quiet.offerFault f

/-- A read of client `c`'s submission ring ends in error (R146). The ring index is that of the failed read itself, which a ring
swap under the read does not change (log entry 10). -/
def clientReadFault (c : ClientId) (kind : FaultKind) (s : State) : State :=
  match (s.ring c).fetch with
  | .idle | .inHand _ => s
  | .fetching index _ =>
    let f : FaultInfo := { client := c, ring := .submission, index := index, kind := kind }
    if c = 0 then s
    else
      match s.engine with
      | .running => (s.quiet.settleRead c).clientFault f
      | .halted => offerOnly s f
      | .stopped => s

/-- CLIENT_SUBMISSION_READ_FAULT (R146). -/
def execClientSubmissionReadFault (access : Access) (kind : FaultKind) (s : State) : Host.Outcome State Fault Refusal :=
  takeReport access.epoch s (.next (clientReadFault access.client kind s))

/-- A write to client `c`'s completion ring ends in error (R146). -/
def clientWriteFault (c : ClientId) (kind : FaultKind) (s : State) : State :=
  match (s.ring c).writing with
  | none => s
  | some w =>
    let f : FaultInfo := { client := c, ring := .completion, index := w.slot, kind := kind }
    if c = 0 then s
    else
      match s.engine with
      | .running => ((s.quiet.settleWrite c).clientFault f).failSwap c
      | .halted => offerOnly s f
      | .stopped => s

/-- CLIENT_COMPLETION_WRITE_FAULT (R146). -/
def execClientCompletionWriteFault (access : Access) (kind : FaultKind) (s : State) : Host.Outcome State Fault Refusal :=
  takeReport access.epoch s (.next (clientWriteFault access.client kind s))

/-! ## Faults on the control rings (R149) -/

/-- The context of client 0 after a failed read, frozen from then on, so that no notice is drained (R145, R149). -/
def RingContext.readFailed (r : RingContext) : RingContext := { r with fetch := .idle, reserved := r.reserved - 1 }

/-- The context of client 0 after a failed write (R145, R149). -/
def RingContext.writeFailed (r : RingContext) : RingContext := { r with writing := none, reserved := r.reserved - 1 }

/-- A read of the control submission ring ends in error (R149). -/
def controlReadFault (kind : FaultKind) (s : State) : State :=
  match (s.ring 0).fetch with
  | .idle | .inHand _ => s
  | .fetching index _ =>
    let f : FaultInfo := { client := 0, ring := .submission, index := index, kind := kind }
    match s.engine with
    | .running => ((s.quiet.setRing 0 (s.ring 0).readFailed).offerFault f).halt .controlReadFault
    | .halted => offerOnly s f
    | .stopped => s

/-- CONTROL_READ_FAULT (R149). -/
def execControlReadFault (failure : ControlFailure) (s : State) : Host.Outcome State Fault Refusal :=
  takeReport failure.epoch s (.next (controlReadFault failure.kind s))

/-- A write to the control completion ring ends in error, whatever it carried (R149). -/
def controlWriteFault (kind : FaultKind) (s : State) : State :=
  match (s.ring 0).writing with
  | none => s
  | some w =>
    let f : FaultInfo := { client := 0, ring := .completion, index := w.slot, kind := kind }
    match s.engine with
    | .running => ((s.quiet.setRing 0 (s.ring 0).writeFailed).offerFault f).halt .controlWriteFault
    | .halted => offerOnly s f
    | .stopped => s

/-- CONTROL_WRITE_FAULT (R149). -/
def execControlWriteFault (failure : ControlFailure) (s : State) : Host.Outcome State Fault Refusal :=
  takeReport failure.epoch s (.next (controlWriteFault failure.kind s))

/-! ## Engine control (R148, R151, R152) -/

/-- The test of START on the control ring registers (R148). -/
def validControlRings (r : Registers) : Bool :=
  validBase r.place.sqBase && validBase r.place.cqBase && validSize r.place.sqSize && validSize r.place.cqSize

/-- A write to ENGINE CONTROL that requests START (R148): in STOPPED the engine starts, with client 0's rings from the
registers and the Lease Clock from 0 (R79, R128), or the refusal is recorded; in RUNNING and HALTED it is ignored. -/
def startEngine (s : State) : State :=
  if s.engine = .stopped then
    if validControlRings s.regs then
      ({ s.quiet with engine := .running, startRefusal := .none,
                      clock := { s.clock with elapsed := 0, owed := [] } }).setRing 0
        { s.ring 0 with place := s.regs.place }
    else { s.quiet with startRefusal := .badControlRing }
  else s

/-- START (R148). -/
def execStart (s : State) : Host.Outcome State Fault Refusal := .next (startEngine s)

/-- An engine soft reset: every block at its reset values in one event; the control ring registers and the fault capture are
kept (R151). The queue of commands is no part of the engine. The accesses in flight are abandoned: a new epoch begins. -/
def softReset (s : State) : State := { State.resetWith s.regs s.capture with pending := s.pending, epoch := s.epoch + 1 }

/-- SOFT_RESET (R151); with START requested by the same word, a soft reset followed by a START (R148). -/
def execSoftReset (andStart : Bool) (s : State) : Host.Outcome State Fault Refusal :=
  .next (if andStart then startEngine (softReset s) else softReset s)

/-- Power-on and host link reset: every effect of a soft reset, the control ring registers 0, the capture empty (R152). -/
def fullReset (s : State) : State := { State.reset with pending := s.pending, epoch := s.epoch + 1 }

/-- POWER_ON (R152). -/
def execPowerOn (s : State) : Host.Outcome State Fault Refusal := .next (fullReset s)

/-- HOST_LINK_RESET (R152). -/
def execHostLinkReset (s : State) : Host.Outcome State Fault Refusal := .next (fullReset s)

/-! ## Writes of the register window (R148, R155) -/

/-- The control ring registers with one of them written (11.3). -/
def Registers.write (r : Registers) (offset : BitVec 12) (value : Word) : Registers :=
  if offset = 0x010 then { r with sqBaseLow := value }
  else if offset = 0x014 then { r with sqBaseHigh := value }
  else if offset = 0x018 then { r with cqBaseLow := value }
  else if offset = 0x01C then { r with cqBaseHigh := value }
  else if offset = 0x020 then { r with sizes := value }
  else r

/-- REGISTER_WRITE (R155): the control ring registers take their value in STOPPED; every other write that no other row names
is ignored. A word at POST, ENGINE CONTROL or FAULT CLEAR acts as the row that it spells (log entry 23). -/
def execRegisterWrite (offset : BitVec 12) (value : Word) (s : State) : Host.Outcome State Fault Refusal :=
  match Decode.registerWrite offset value with
  | .submit c index => takeEvent s (postTaken c (submitPost c index))
  | .consumed c index => takeEvent s (postTaken c (consumedPost c index))
  | .arm c _ => takeEvent s (postTaken c (armPost c))
  | .start => .next (startEngine s)
  | .softReset andStart => .next (if andStart then startEngine (softReset s) else softReset s)
  | .faultClear _ => .next (clearCapture s)
  | _ => .next (if s.engine = .stopped then { s with regs := s.regs.write offset value } else s)

end Sys2Proof.Machine
end

