-- ==== Sys2Proof/Machine/Holding.lean ====
section
/-! DEFINITION. Holding, renewing and letting go: RELEASE, RENEW, UPGRADE, DOWNGRADE and FORCE_RELEASE (chapter 4), and
QUERY_LOCK (1.7). -/

namespace Sys2Proof.Machine

/-- A hold that a request names, with its entry and slot. -/
structure FoundHold where
  entry : LockEntry
  slot : SlotId
  hold : Holder

/-- The hold that the requester names by lock name and token: its own, on a resident entry (R4, R63). -/
def State.findHold (s : State) (c : ClientId) (name : Name) (t : Token) : Option FoundHold :=
  match s.entry? name with
  | some e =>
    match e.holders.find? (fun p => p.2.token == t && p.2.client == c) with
    | some p => some { entry := e, slot := p.1, hold := p.2 }
    | none => none
  | none => none

/-- The answer to a request whose hold is not found: STALE for a token on the client's expired-token list, otherwise
UNKNOWN_TOKEN with its charge (R65). -/
def State.answerLost (s : State) (k : Taken) (t : Token) : State :=
  if (s.account k.client).expired.contains t then s.answer k .stale
  else (s.handCharge k.client Config.chargeUnknownToken).answer k .unknownToken

/-- A found RELEASE, in the order of R66. -/
def releaseFound (k : Taken) (h : FoundHold) (s : State) : State :=
  ((((AtEntry.removeHold { entry := h.entry, state := s } h.slot h.hold).onState (fun t =>
      ((t.emitHold .released h.entry.name h.hold).handCredit k.client).answer k .ok)).endUpgradeOfSlot h.slot
        (fun _ _ => .cancelled .byRequest))).passAndClose

/-- A taken RELEASE (R63, R65, R66). -/
def releaseTaken (k : Taken) (f : Decode.HoldFields) (s : State) : State :=
  match s.findHold k.client f.name f.token with
  | some h => releaseFound k h s
  | none => s.answerLost k f.token

/-- RELEASE (R66). -/
def execRelease (q : ClientId) (s : State) : Host.Outcome State Fault Refusal :=
  takeLockEvent s (fun s1 =>
    s1.takeRecord q .release Decode.holdFields (fun f => [f.name]) noAdjust releaseTaken)

/-- A taken RENEW: the hold's lease remaining is replaced, and a raised expiry of it is withdrawn (R67, R83). -/
def renewTaken (k : Taken) (f : Decode.RenewFields) (s : State) : State :=
  match s.findHold k.client f.name f.token with
  | some h =>
    let lease := effectiveLease f.lease (s.client k.client).config.defaultLease k.cap
    (s.storeEntry (h.entry.setSlot h.slot (some { h.hold with lease := lease, expiryRaised := false }))).answerWith k .ok
      (.renewed lease)
  | none => s.answerLost k f.token

/-- RENEW (R67). -/
def execRenew (q : ClientId) (s : State) : Host.Outcome State Fault Refusal :=
  takeLockEvent s (fun s1 =>
    s1.takeRecord q .renew Decode.renewFields (fun f => [f.name]) adjustRenew renewTaken)

/-- The pending upgrade that an UPGRADE becomes, on the entry as it stood (R71, R69 step 5). -/
def newUpgrade (k : Taken) (wait : Nat) (order : BitVec 64) (h : FoundHold) : PendingUpgrade :=
  { slot := h.slot, client := k.client, tag := k.tag, order := order, wait := storedWait wait, waited := 0,
    report := h.entry.report 0, index := k.index, expiryRaised := false }

/-- Steps 2 to 7 of R69 for a found hold. -/
def upgradeFound (k : Taken) (wait : Nat) (h : FoundHold) (s : State) : State :=
  if h.hold.mode = .exclusive then s.answer k .wrongMode
  else if h.entry.holderCount = 1 then
    (s.storeEntry { h.entry.setSlot h.slot (some { h.hold with mode := .exclusive }) with mode := .exclusive }).answerWith k
      .granted (.granted h.hold.token h.hold.lease 0 none 1)
  else if h.entry.upgrade.isSome then s.answer k .upgradeConflict
  else if wait = 0 then (s.storeEntry h.entry.contend).answerWith k .busy (.busy (h.entry.report 0) 0)
  else if s.atWaitQuota k.client then (s.storeEntry h.entry.contend).answer k .quotaWaits
  else
    (s.storeEntry { h.entry.contend with
      upgrade := some (newUpgrade k wait (s.account k.client).requests h) }).addWait k.client

/-- A taken UPGRADE, by the check order of R69. -/
def upgradeTaken (k : Taken) (f : Decode.UpgradeFields) (s0 : State) : State :=
  let s := s0.countRequest k.client
  match s.findHold k.client f.name f.token with
  | some h => upgradeFound k f.wait h s
  | none => s.answerLost k f.token

/-- UPGRADE (R69 to R71). -/
def execUpgrade (q : ClientId) (s : State) : Host.Outcome State Fault Refusal :=
  takeLockEvent s (fun s1 =>
    s1.takeRecord q .upgrade Decode.upgradeFields (fun f => [f.name]) adjustUpgrade upgradeTaken)

/-- A taken DOWNGRADE: the hold and the entry become SHARED, the response is handed on, and the grant pass runs (R68). -/
def downgradeTaken (k : Taken) (f : Decode.HoldFields) (s : State) : State :=
  match s.findHold k.client f.name f.token with
  | some h =>
    if h.hold.mode = .shared then s.answer k .wrongMode
    else
      AtEntry.passAndClose
        { entry := { h.entry.setSlot h.slot (some { h.hold with mode := .shared }) with mode := .shared },
          state := s.answer k .ok }
  | none => s.answerLost k f.token

/-- DOWNGRADE (R68). -/
def execDowngrade (q : ClientId) (s : State) : Host.Outcome State Fault Refusal :=
  takeLockEvent s (fun s1 =>
    s1.takeRecord q .downgrade Decode.holdFields (fun f => [f.name]) noAdjust downgradeTaken)

/-- The hold that carries a token at a name, whatever client it belongs to (R4, R75). -/
def State.findToken (s : State) (name : Name) (t : Token) : Option FoundHold :=
  match s.entry? name with
  | some e =>
    match e.holderByToken? t with
    | some p => some { entry := e, slot := p.1, hold := p.2 }
    | none => none
  | none => none

/-- A taken FORCE_RELEASE (R75). -/
def forceReleaseTaken (k : Taken) (f : Decode.HoldFields) (s : State) : State :=
  match s.findToken f.name f.token with
  | some h =>
    (AtEntry.revoke { entry := h.entry, state := s } h.slot h.hold (fun _ _ => .cancelled .forced)).answer k .ok
  | none => s.answer k .notFound

/-- FORCE_RELEASE (R75, R138). -/
def execForceRelease (q : ClientId) (s : State) : Host.Outcome State Fault Refusal :=
  takeLockEvent s (fun s1 =>
    s1.takeRecord q .forceRelease Decode.holdFields noNames noAdjust forceReleaseTaken)

/-- The snapshot of an entry: head fields 0 when no waiter stands (R18). -/
def LockEntry.snapshot (e : LockEntry) : LockSnapshot :=
  { mode := e.mode, holders := e.holderCount, firstHolder := e.firstHolder, waiters := e.waiters.length,
    headClient := (e.waiters.head?.map (fun w => w.client)).getD 0,
    headMode := (e.waiters.head?.map (fun w => w.mode)).getD .shared,
    upgradePending := e.upgrade.isSome, contention := e.contention }

/-- A taken QUERY_LOCK (R18). -/
def queryLockTaken (k : Taken) (name : Name) (s : State) : State :=
  match s.entry? name with
  | some e => s.answerWith k .ok (.lock e.snapshot)
  | none => s.answer k .notFound

/-- QUERY_LOCK (R18). -/
def execQueryLock (q : ClientId) (s : State) : Host.Outcome State Fault Refusal :=
  takeLockEvent s (fun s1 =>
    s1.takeRecord q .queryLock Decode.queryName noNames noAdjust queryLockTaken)

end Sys2Proof.Machine
end

