-- ==== Sys2Proof/Machine/LeaseClock.lean ====
section
/-! DEFINITION. The Lease Clock: ticks and their sweeps, the visits, lease expiries, recoveries, and SET_TIMEBASE
(chapter 5, R110). -/

namespace Sys2Proof.Machine

/-! ## Ticks and sweeps (R78, R81) -/

/-- The visits of a tick that arrives now: every resident entry and every RECOVERING client (R81). -/
def State.sweepNow (s : State) : Sweep :=
  { entries := s.table.map (fun e => e.name),
    clients := Config.allClients.filter (fun c => (s.client c).state == .recovering) }

/-- An item of the entry has a raised expiry that is neither taken nor withdrawn (R83). -/
def LockEntry.hasRaised (e : LockEntry) : Bool :=
  e.holders.any (fun p => p.2.expiryRaised) || e.waiters.any (fun w => w.expiryRaised) ||
    (match e.upgrade with | some u => u.expiryRaised | none => false)

/-- A sweep is in progress: a visit is still to be made, or a raised expiry to be taken or withdrawn (R81). -/
def State.sweeping (s : State) : Bool :=
  !s.clock.sweep.entries.isEmpty || !s.clock.sweep.clients.isEmpty || s.table.any (fun e => e.hasRaised)

/-- A tick arrives: the elapsed count returns to 0 and the next interval begins at the period then in force; the sweep of the
tick starts, or the tick is counted as owed, or with 255 owed it is not counted (R78, R80, R81). -/
def State.tickArrives (s : State) : State :=
  let clock := { s.clock with elapsed := 0, period := s.clock.nextPeriod }
  if s.sweeping ∨ s.clock.owed ≠ [] then
    if s.clock.owed.length < Config.owedMax then { s with clock := { clock with owed := s.clock.owed ++ [s.sweepNow] } }
    else { s with clock := clock }
  else { s with clock := { clock with sweep := s.sweepNow } }

/-- One unit of 10 µs passes (R78): the elapsed count rises, and when it reaches the period a tick arrives. -/
def State.unitPasses (s : State) : State :=
  if s.engine = .running then
    if s.clock.elapsed + 1 < s.clock.period then { s with clock := { s.clock with elapsed := s.clock.elapsed + 1 } }
    else s.quiet.tickArrives
  else s

/-- TICK (R78): the rest of the interval passes, the elapsed count reaches the period, and a tick arrives. -/
def execTick (s : State) : Host.Outcome State Fault Refusal := takeEvent s (fun s1 => some s1.tickArrives)

/-- The sweep of the oldest owed tick starts, when no sweep is in progress (R81). -/
def State.startOwed (s : State) : Option State :=
  match s.clock.owed with
  | [] => none
  | w :: rest => if s.sweeping then none else some { s with clock := { s.clock with sweep := w, owed := rest } }

/-- OWED_TICK_SWEEP (R81). -/
def execOwedTickSweep (s : State) : Host.Outcome State Fault Refusal := takeEvent s State.startOwed

/-! ## The visit of an entry (R82) -/

/-- A holder's lease at a visit: above 1 it falls by 1, at 1 its expiry is raised (R82). -/
def Holder.visit (h : Holder) : Holder :=
  if 1 < h.lease then { h with lease := h.lease - 1 } else { h with expiryRaised := true }

/-- A waiter at a visit (R82). -/
def Waiter.visit (x : Waiter) : Waiter :=
  match x.wait with
  | none => { x with waited := satSucc x.waited }
  | some n =>
    if 1 < n then { x with wait := some (n - 1), waited := satSucc x.waited } else { x with expiryRaised := true }

/-- A pending upgrade at a visit (R82). -/
def PendingUpgrade.visit (u : PendingUpgrade) : PendingUpgrade :=
  match u.wait with
  | none => { u with waited := satSucc u.waited }
  | some n =>
    if 1 < n then { u with wait := some (n - 1), waited := satSucc u.waited } else { u with expiryRaised := true }

/-- The visit counts every countdown at the entry (R82). -/
def LockEntry.visit (e : LockEntry) : LockEntry :=
  { e with slots := e.slots.map (Option.map Holder.visit), waiters := e.waiters.map Waiter.visit,
           upgrade := e.upgrade.map PendingUpgrade.visit }

/-- The sweep's visit of a resident entry that it has still to visit (R81, R82). -/
def visitEntry (name : Name) (s : State) : Option State :=
  match s.entry? name with
  | some e =>
    if s.clock.sweep.entries.contains name then
      some { s.storeEntry e.visit with clock := { s.clock with sweep := s.clock.sweep.dropEntry name } }
    else none
  | none => none

/-- TICK_VISIT_ENTRY (R82). -/
def execTickVisitEntry (name : Name) (s : State) : Host.Outcome State Fault Refusal := takeEvent s (visitEntry name)

/-! ## Lease expiry (R84, R85) -/

/-- A raised lease expiry at an entry, in the order of R84; none when it was withdrawn or never raised (R83). The charge is
handed on whatever the client's state, and the notice and the upgrade's response follow that state (R85). -/
def leaseExpiryAt (name : Name) (t : Token) (s : State) : Option State :=
  match s.entry? name with
  | none => none
  | some e =>
    match (e.holderByToken? t).filter (fun p => p.2.expiryRaised) with
    | none => none
    | some (i, h) =>
      some ((((AtEntry.removeHold { entry := e, state := s } i h).onState (fun s1 =>
          (((s1.loseToken h.client h.token).emitHold .expired name h).handCharge h.client
            Config.chargeLeaseExpiry).notify h.client (.expired name h.token h.tag))).endUpgradeOfSlot i
              (fun s2 c => s2.endingFor c .leaseLost)).passAndClose)

/-- LEASE_EXPIRY (R84). -/
def execLeaseExpiry (name : Name) (token : Token) (s : State) : Host.Outcome State Fault Refusal :=
  takeLockEvent s (leaseExpiryAt name token)

/-! ## Recovery (R86, R110) -/

/-- A recovery completes, in the order of R110: score 0 and grade GOOD, ACTIVE, a STANDING notice from RESTRICTED to GOOD, and
a CLIENT_STANDING notice. A charge or a credit of the client that was handed on before and is not yet taken stays in transit, and is
applied to the score of 0 when it is taken; the manual does not say: DESIGN CHOICE (log entry 35). -/
def State.completeRecovery (s : State) (c : ClientId) : State :=
  (((((s.setRecovery c 0).setStanding c { score := 0, grade := .good }).setClient c
    { s.client c with state := .active }).forgetClient c).notify c (.standing .restricted .good 0)).notify 0
      (.clientStanding c .returnedToActive 0)

/-- The sweep has still to visit this RECOVERING client (R81). -/
def State.recoveryDue (s : State) (c : ClientId) : Bool :=
  (s.client c).state == .recovering && s.clock.sweep.clients.contains c

/-- The visit of the current sweep is made. -/
def State.visitedClient (s : State) (c : ClientId) : State :=
  { s with clock := { s.clock with sweep := s.clock.sweep.dropClient c } }

/-- A tick's visit at a RECOVERING client: the count falls by 1, and when it reaches 0 the recovery completes in the same
event (R86). -/
def visitRecovering (c : ClientId) (s : State) : Option State :=
  if s.recoveryDue c then
    if s.recovery c ≤ 1 then some ((s.visitedClient c).completeRecovery c)
    else some ((s.visitedClient c).setRecovery c (s.recovery c - 1))
  else none

/-- RECOVERY_VISIT (R86). -/
def execRecoveryVisit (c : ClientId) (s : State) : Host.Outcome State Fault Refusal := takeEvent s (visitRecovering c)

/-- The visit that brings the recovery remaining to 0, and the completion (R86, R110). -/
def completeVisit (c : ClientId) (s : State) : Option State :=
  if s.recoveryDue c ∧ s.recovery c ≤ 1 then some ((s.visitedClient c).completeRecovery c) else none

/-- RECOVERY_COMPLETE (R110). -/
def execRecoveryComplete (c : ClientId) (s : State) : Host.Outcome State Fault Refusal := takeEvent s (completeVisit c)

/-! ## SET_TIMEBASE (R80) -/

/-- A taken SET_TIMEBASE: the next interval's period is replaced. -/
def timebaseTaken (k : Taken) (period : Nat) (s : State) : State :=
  ({ s with clock := { s.clock with nextPeriod := period } }).answer k .ok

/-- SET_TIMEBASE (R80). -/
def execSetTimebase (q : ClientId) (s : State) : Host.Outcome State Fault Refusal :=
  takeEvent s (fun s1 => s1.takeRecord q .setTimebase Decode.periodField noNames noAdjust timebaseTaken)

end Sys2Proof.Machine
end

