-- ==== Sys2Proof/Machine/StandingUnit.lean ====
section
/-! DEFINITION. The Standing Unit: charges, credits, SET_LIMITS and SET_STANDING (chapter 7). -/

namespace Sys2Proof.Machine

/-- The score of a client is set; its grade follows by `regrade`. -/
def State.setScore (s : State) (c : ClientId) (score : Nat) : State := s.setStanding c { s.standing c with score := score }

/-- A charge that brings this client to 255 isolates it: ACTIVE or DISABLED, and not under teardown (R106). -/
def ClientRecord.isolable (r : ClientRecord) : Bool :=
  (r.state == .active || r.state == .disabled) && r.teardown.isNone

/-- A charge is taken at a client's standing record: the score rises, saturating at 255, the client is regraded, and a score
that reaches 255 from below isolates the client in the same event. Client 0 is not charged (R99, R100, R106, R107). -/
def State.applyCharge (s : State) (c : ClientId) (amount : Nat) : State :=
  if c = 0 then s
  else
    let old := (s.standing c).score
    let new := min Config.topScore (old + amount)
    let s1 := (s.setScore c new).regrade c
    if old < Config.topScore ∧ new = Config.topScore ∧ (s1.client c).isolable then s1.isolate c none else s1

/-- A charge handed on and not yet taken is taken; charges of one client may be taken in any order (R100). -/
def takeCharge (c : ClientId) (amount : Nat) (s : State) : Option State :=
  if s.standingQueue.contains (.charge c amount) then
    some (({ s with standingQueue := s.standingQueue.erase (.charge c amount) }).applyCharge c amount)
  else none

/-- STANDING_CHARGE (R100). -/
def execStandingCharge (c : ClientId) (amount : Nat) (s : State) : Host.Outcome State Fault Refusal :=
  takeEvent s (takeCharge c amount)

/-- A credit is taken: a score of 1 to 254 falls by 1, 0 and 255 stay. Client 0 is not credited (R99, R101). -/
def State.applyCredit (s : State) (c : ClientId) : State :=
  if c = 0 then s
  else
    let old := (s.standing c).score
    if old = 0 ∨ Config.topScore ≤ old then s else (s.setScore c (old - 1)).regrade c

/-- A credit handed on and not yet taken is taken (R101). -/
def takeCredit (c : ClientId) (s : State) : Option State :=
  if s.standingQueue.contains (.credit c) then
    some (({ s with standingQueue := s.standingQueue.erase (.credit c) }).applyCredit c)
  else none

/-- STANDING_CREDIT (R101). -/
def execStandingCredit (c : ClientId) (s : State) : Host.Outcome State Fault Refusal := takeEvent s (takeCredit c)

/-- Every configured client is graded again, in client-number order (R104). -/
def State.regradeAll (s : State) : State :=
  Config.allClients.foldl (fun t c => if (t.client c).state = .unconfigured then t else t.regrade c) s

/-- A taken SET_LIMITS (R104). -/
def limitsTaken (k : Taken) (f : Decode.LimitFields) (s : State) : State :=
  if 1 ≤ f.warning ∧ f.warning < f.restricted ∧ f.restricted ≤ 254 then
    (({ s with limits := { warning := f.warning, restricted := f.restricted, recovery := f.recovery,
                           leaseCap := f.leaseCap, waitCap := f.waitCap } }).regradeAll).answer k .ok
  else s.answer k .badRequest

/-- SET_LIMITS (R104). -/
def execSetLimits (q : ClientId) (s : State) : Host.Outcome State Fault Refusal :=
  takeEvent s (fun s1 => s1.takeRecord q .setLimits Decode.limitFields noNames noAdjust limitsTaken)

/-- A taken SET_STANDING (R111): client 0 is BAD_REQUEST, a client under teardown TEARDOWN_PENDING, one that is not DISABLED
WRONG_STATE. Otherwise the score is set, a pending recovery is cleared, and the client is regraded. -/
def setStandingTaken (k : Taken) (f : Decode.StandingFields) (s : State) : State :=
  if f.target = 0 then s.answer k .badRequest
  else if (s.client f.target).teardown.isSome then s.answer k .teardownPending
  else if (s.client f.target).state ≠ .disabled then s.answer k .wrongState
  else
    ((((s.setScore f.target f.score).setRecovery f.target 0).setClient f.target
      { s.client f.target with recoveryPending := false }).regrade f.target).answer k .ok

/-- SET_STANDING (R111). -/
def execSetStanding (q : ClientId) (s : State) : Host.Outcome State Fault Refusal :=
  takeEvent s (fun s1 => s1.takeRecord q .setStanding Decode.standingFields noNames noAdjust setStandingTaken)

end Sys2Proof.Machine
end

