-- ==== Sys2Proof/Machine/Waiting.lean ====
section
/-! DEFINITION. Cancelling a wait, and the expiries of waits and of pending upgrades: CANCEL, WAIT_EXPIRY and
UPGRADE_WAIT_EXPIRY (3.5, 3.6, R73). -/

namespace Sys2Proof.Machine

/-- A wait of a client that a CANCEL may name: its entry, its taken order, and whether it is the entry's pending upgrade
(R53). -/
structure CancelTarget where
  name : Name
  order : BitVec 64
  isUpgrade : Bool

/-- The client's waiter with this tag on the entry. -/
def LockEntry.waiterTagged? (e : LockEntry) (c : ClientId) (t : Tag) : Option Waiter :=
  e.waiters.find? (fun w => w.client == c && w.tag == t)

/-- The client's pending upgrade with this tag on the entry. -/
def LockEntry.upgradeTagged? (e : LockEntry) (c : ClientId) (t : Tag) : Option PendingUpgrade :=
  e.upgrade.filter (fun u => u.client == c && u.tag == t)

/-- The waits on one entry that a CANCEL matches (R53). -/
def LockEntry.cancelTargets (e : LockEntry) (c : ClientId) (t : Tag) : List CancelTarget :=
  ((e.waiterTagged? c t).map (fun w => { name := e.name, order := w.order, isUpgrade := false : CancelTarget })).toList ++
  ((e.upgradeTagged? c t).map (fun u => { name := e.name, order := u.order, isUpgrade := true : CancelTarget })).toList

/-- The target with the lowest taken order (R53). -/
def earliest : List CancelTarget → Option CancelTarget
  | [] => none
  | x :: xs =>
    match earliest xs with
    | some y => if y.order < x.order then some y else some x
    | none => some x

/-- The target of a CANCEL among the client's waits on every lock (R53). -/
def State.cancelTarget (s : State) (c : ClientId) (t : Tag) : Option CancelTarget :=
  earliest (s.table.flatMap (fun e => e.cancelTargets c t))

/-- A waiter leaves its list with a status, and the grant pass runs when it was the head (R54, R57, R141). -/
def AtEntry.endWaiterThere (w : AtEntry) (x : Waiter) (status : Status) : State :=
  let w1 : AtEntry := { entry := w.entry.dropWaiter x.client, state := w.state.endWaiter x status }
  if w.entry.headIs x.client then w1.passAndClose else w1.close

/-- A pending upgrade ends with a status, and the grant pass runs (R54, R73, R141). -/
def AtEntry.endUpgradeThere (w : AtEntry) (u : PendingUpgrade) (status : Status) : State :=
  (w.endUpgrade u status).passAndClose

/-- The cancellation of a target, before the CANCEL's own answer (R54). -/
def State.cancelAt (s : State) (c : ClientId) (t : Tag) (g : CancelTarget) : State :=
  match s.entry? g.name with
  | none => s
  | some e =>
    if g.isUpgrade then
      match e.upgradeTagged? c t with
      | some u => AtEntry.endUpgradeThere { entry := e, state := s } u (.cancelled .byRequest)
      | none => s
    else
      match e.waiterTagged? c t with
      | some x => AtEntry.endWaiterThere { entry := e, state := s } x (.cancelled .byRequest)
      | none => s

/-- A taken CANCEL (R53, R54): the target's response first, then the grants of the pass, then the CANCEL's own. -/
def cancelTaken (k : Taken) (t : Tag) (s : State) : State :=
  match s.cancelTarget k.client t with
  | some g => (s.cancelAt k.client t g).answer k .ok
  | none => s.answer k .notFound

/-- CANCEL (R54). -/
def execCancel (q : ClientId) (s : State) : Host.Outcome State Fault Refusal :=
  takeLockEvent s (fun s1 => s1.takeRecord q .cancel Decode.targetTag noNames noAdjust cancelTaken)

/-- An expiry completes its count: the waited ticks of the expiring item rise by 1 (R83). -/
def Waiter.completeWait (x : Waiter) : Waiter := { x with waited := satSucc x.waited }

@[inherit_doc Waiter.completeWait] def PendingUpgrade.completeWait (u : PendingUpgrade) : PendingUpgrade :=
  { u with waited := satSucc u.waited }

/-- A raised wait expiry at an entry (R57); none when it was withdrawn or never raised (R83). -/
def waitExpiryAt (name : Name) (c : ClientId) (t : Tag) (s : State) : Option State :=
  match s.entry? name with
  | none => none
  | some e =>
    match (e.waiterTagged? c t).filter (fun x => x.expiryRaised) with
    | none => none
    | some x =>
      some (AtEntry.endWaiterThere { entry := e, state := s } x.completeWait (s.endingFor c .timeout))

/-- WAIT_EXPIRY (R57). -/
def execWaitExpiry (name : Name) (c : ClientId) (tag : Tag) (s : State) : Host.Outcome State Fault Refusal :=
  takeLockEvent s (waitExpiryAt name c tag)

/-- A raised upgrade wait expiry at an entry (R73); none when it was withdrawn or never raised (R83). -/
def upgradeWaitExpiryAt (name : Name) (t : Tag) (s : State) : Option State :=
  match s.entry? name with
  | none => none
  | some e =>
    match e.upgrade.filter (fun u => u.tag == t && u.expiryRaised) with
    | none => none
    | some u =>
      some (AtEntry.endUpgradeThere { entry := e, state := s } u.completeWait (s.endingFor u.client .timeout))

/-- UPGRADE_WAIT_EXPIRY (R73). -/
def execUpgradeWaitExpiry (name : Name) (tag : Tag) (s : State) : Host.Outcome State Fault Refusal :=
  takeLockEvent s (upgradeWaitExpiryAt name tag)

end Sys2Proof.Machine
end

