-- ==== Sys2Proof/Machine/Teardowns.lean ====
section
/-! DEFINITION. The steps of a client's teardown (9.4, R140 to R142). -/

namespace Sys2Proof.Machine

/-- The second and later steps of client `c`'s teardown may be taken: a teardown is in progress, and a record in hand when it
began has been taken (R140). -/
def State.tearingDown (s : State) (c : ClientId) : Bool :=
  (s.client c).teardown.isSome && (match (s.ring c).fetch with | .inHand _ => false | _ => true)

/-- Step 2 at an entry where the client waits (R141). -/
def removeWaiterStep (c : ClientId) (name : Name) (s : State) : Option State :=
  if s.tearingDown c then
    match s.entry? name with
    | some e =>
      match e.waiterOf? c with
      | some x => some (AtEntry.endWaiterThere { entry := e, state := s } x (.cancelled .isolation))
      | none => none
    | none => none
  else none

/-- TEARDOWN_REMOVE_WAITER (R141). -/
def execTeardownRemoveWaiter (c : ClientId) (name : Name) (s : State) : Host.Outcome State Fault Refusal :=
  takeLockEvent s (removeWaiterStep c name)

/-- Step 2 at an entry that holds the client's pending upgrade (R141). -/
def removeUpgradeStep (c : ClientId) (name : Name) (s : State) : Option State :=
  if s.tearingDown c then
    match s.entry? name with
    | some e =>
      match e.upgrade.filter (fun u => u.client == c) with
      | some u => some (AtEntry.endUpgradeThere { entry := e, state := s } u (.cancelled .isolation))
      | none => none
    | none => none
  else none

/-- TEARDOWN_REMOVE_UPGRADE (R141). -/
def execTeardownRemoveUpgrade (c : ClientId) (name : Name) (s : State) : Host.Outcome State Fault Refusal :=
  takeLockEvent s (removeUpgradeStep c name)

/-- Step 3: with no wait left, the oldest hold of the hold list is revoked; a hold that no entry carries is skipped (R141). -/
def revokeHoldStep (c : ClientId) (s : State) : Option State :=
  if s.tearingDown c && (s.account c).waits == 0 then
    match (s.account c).holds with
    | [] => none
    | i :: _ =>
      match s.entry? i.name with
      | some e =>
        match e.holders.find? (fun p => p.2.token == i.token && p.2.client == c) with
        | some p => some (AtEntry.revoke { entry := e, state := s } p.1 p.2 (fun _ _ => .cancelled .isolation))
        | none => some (s.dropHold c i.token)
      | none => some (s.dropHold c i.token)
  else none

/-- TEARDOWN_REVOKE_HOLD (R141). -/
def execTeardownRevokeHold (c : ClientId) (s : State) : Host.Outcome State Fault Refusal :=
  takeLockEvent s (revokeHoldStep c)

/-- Steps 2 and 3 are done: no wait and no hold is left. -/
def State.tornDown (s : State) (c : ClientId) : Bool :=
  s.tearingDown c && (s.account c).waits == 0 && (s.account c).holds.isEmpty

/-- Step 4: every watch the client owns is removed in one event (R142, R97). -/
def removeWatchesStep (c : ClientId) (s : State) : Option State :=
  if s.tornDown c then some { s with watches := s.watches.filter (fun w => w.owner != c) } else none

/-- TEARDOWN_REMOVE_WATCHES (R142). -/
def execTeardownRemoveWatches (c : ClientId) (s : State) : Host.Outcome State Fault Refusal :=
  takeEvent s (removeWatchesStep c)

/-- The command, if any, whose answer waits for the teardown is answered OK (R142). -/
def State.answerWaiting (s : State) (w : Option CommandRef) : State :=
  match w with
  | some ref => s.answerRef ref .ok
  | none => s

/-- The clearing steps of R137, in their order: expired tokens, score and grade, ring context, DISABLED, the flag. A charge or a
credit of the client that was handed on before and is not yet taken stays in transit, and is applied to the cleared score when
it is taken. R113 speaks only of charges that reach the client during the teardown: DESIGN CHOICE (log entry 35). -/
def State.clearForReset (s : State) (c : ClientId) : State :=
  (((s.setAccount c { s.account c with expired := [] }).setStanding c Standing.reset).setRing c
    (RingContext.reset (s.ring c).place)).setClient c { s.client c with state := .disabled, teardown := none }

/-- The end of a teardown with its end actions (R142). -/
def State.finishTeardown (s : State) (c : ClientId) (t : Teardown) : State :=
  match t.cause with
  | .reset => (s.clearForReset c).answerWaiting t.waiting
  | .halt => (s.setClient c { s.client c with teardown := none }).answerWaiting t.waiting
  | .isolation =>
    let s1 := s.setClient c { s.client c with teardown := none }
    let s2 := if (s.client c).state = .isolated then s1.notify 0 (.clientStanding c .isolated Config.topScore) else s1
    s2.answerWaiting t.waiting

/-- Step 5: with the four kinds of record gone, once no write to the client's ring and no read for it is in flight, the
teardown ends (R142). -/
def endTeardownStep (c : ClientId) (s : State) : Option State :=
  match (s.client c).teardown with
  | none => none
  | some t =>
    if s.tornDown c && s.watchCount c == 0 && (s.ring c).fetch == .idle && (s.ring c).writing.isNone then
      some (s.finishTeardown c t)
    else none

/-- TEARDOWN_END (R142). -/
def execTeardownEnd (c : ClientId) (s : State) : Host.Outcome State Fault Refusal := takeEvent s (endTeardownStep c)

end Sys2Proof.Machine
end

