-- ==== Sys2Proof/Machine/Dispatch.lean ====
section
/-! DEFINITION. The dispatch: one arm per command, each one direct call of its meaning, in the order of
spec/opcode_table.json. -/

namespace Sys2Proof.Machine

def exec (i : Instr) (s : State) : Host.Outcome State Fault Refusal :=
  match i with
  | .acquire q => Sys2Proof.Machine.execAcquire q s
  | .tryAcquireSet q => Sys2Proof.Machine.execTryAcquireSet q s
  | .release q => Sys2Proof.Machine.execRelease q s
  | .renew q => Sys2Proof.Machine.execRenew q s
  | .upgrade q => Sys2Proof.Machine.execUpgrade q s
  | .downgrade q => Sys2Proof.Machine.execDowngrade q s
  | .cancel q => Sys2Proof.Machine.execCancel q s
  | .watch q => Sys2Proof.Machine.execWatch q s
  | .unwatch q => Sys2Proof.Machine.execUnwatch q s
  | .nop q => Sys2Proof.Machine.execNop q s
  | .configureClient q => Sys2Proof.Machine.execConfigureClient q s
  | .configureClientRingSwap c => Sys2Proof.Machine.execConfigureClientRingSwap c s
  | .enableClient q => Sys2Proof.Machine.execEnableClient q s
  | .disableClient q => Sys2Proof.Machine.execDisableClient q s
  | .resetClient q => Sys2Proof.Machine.execResetClient q s
  | .reinstateClient q => Sys2Proof.Machine.execReinstateClient q s
  | .setStanding q => Sys2Proof.Machine.execSetStanding q s
  | .forceRelease q => Sys2Proof.Machine.execForceRelease q s
  | .queryLock q => Sys2Proof.Machine.execQueryLock q s
  | .queryClient q => Sys2Proof.Machine.execQueryClient q s
  | .setTimebase q => Sys2Proof.Machine.execSetTimebase q s
  | .setLimits q => Sys2Proof.Machine.execSetLimits q s
  | .submit c index => Sys2Proof.Machine.execSubmit c index s
  | .consumed c index => Sys2Proof.Machine.execConsumed c index s
  | .arm c index => Sys2Proof.Machine.execArm c index s
  | .postUndefinedKind c index => Sys2Proof.Machine.execPostUndefinedKind c index s
  | .start => Sys2Proof.Machine.execStart s
  | .softReset andStart => Sys2Proof.Machine.execSoftReset andStart s
  | .faultClear value => Sys2Proof.Machine.execFaultClear value s
  | .registerWrite offset value => Sys2Proof.Machine.execRegisterWrite offset value s
  | .powerOn => Sys2Proof.Machine.execPowerOn s
  | .hostLinkReset => Sys2Proof.Machine.execHostLinkReset s
  | .fetchGrant => Sys2Proof.Machine.execFetchGrant s
  | .fetchReadReturn access bytes => Sys2Proof.Machine.execFetchReadReturn access bytes s
  | .completionWriteEnd access => Sys2Proof.Machine.execCompletionWriteEnd access s
  | .clientSubmissionReadFault access kind => Sys2Proof.Machine.execClientSubmissionReadFault access kind s
  | .clientCompletionWriteFault access kind => Sys2Proof.Machine.execClientCompletionWriteFault access kind s
  | .controlReadFault failure => Sys2Proof.Machine.execControlReadFault failure s
  | .controlWriteFault failure => Sys2Proof.Machine.execControlWriteFault failure s
  | .tick => Sys2Proof.Machine.execTick s
  | .owedTickSweep => Sys2Proof.Machine.execOwedTickSweep s
  | .tickVisitEntry name => Sys2Proof.Machine.execTickVisitEntry name s
  | .leaseExpiry name token => Sys2Proof.Machine.execLeaseExpiry name token s
  | .waitExpiry name c tag => Sys2Proof.Machine.execWaitExpiry name c tag s
  | .upgradeWaitExpiry name tag => Sys2Proof.Machine.execUpgradeWaitExpiry name tag s
  | .recoveryVisit c => Sys2Proof.Machine.execRecoveryVisit c s
  | .recoveryComplete c => Sys2Proof.Machine.execRecoveryComplete c s
  | .standingCharge c amount => Sys2Proof.Machine.execStandingCharge c amount s
  | .standingCredit c => Sys2Proof.Machine.execStandingCredit c s
  | .teardownRemoveWaiter c name => Sys2Proof.Machine.execTeardownRemoveWaiter c name s
  | .teardownRemoveUpgrade c name => Sys2Proof.Machine.execTeardownRemoveUpgrade c name s
  | .teardownRevokeHold c => Sys2Proof.Machine.execTeardownRevokeHold c s
  | .teardownRemoveWatches c => Sys2Proof.Machine.execTeardownRemoveWatches c s
  | .teardownEnd c => Sys2Proof.Machine.execTeardownEnd c s
  | .watchEventMatch name => Sys2Proof.Machine.execWatchEventMatch name s
  | .unknownOpcode q => Sys2Proof.Machine.execUnknownOpcode q s

end Sys2Proof.Machine
end

