-- ==== Sys2Proof/Machine/Step.lean ====
section
/-! DEFINITION. One step: the command at the front of the queue is taken with the queue's rest; with an empty queue one unit of
10 µs passes for the Lease Clock (log entry 3). And where a command that a word spells is put. -/

namespace Sys2Proof.Machine

/-- One step of the block. -/
def step (s : State) : Host.Outcome State Fault Refusal :=
  match s.pending with
  | [] => .next s.unitPasses
  | c :: rest => exec c { s with pending := rest }

/-- The command that a word of spec/opcode_table.json spells, put at the front of the queue; the table gives no row bits, so
no word spells one and the state is unchanged (log entry 17). -/
def State.withFetchWord (s : State) (nbits w : Nat) : State :=
  match decodeTableWord nbits w with
  | some c => { s with pending := c :: s.pending }
  | none => s

end Sys2Proof.Machine
end

