-- ==== Sys2Proof/Safety.lean ====
section
/-! DEFINITION. The words in which claims about the block are made. First, what the hand-over of one completion record does to
one ring context, said on the context alone; from it, the state after a record is answered. Then the occasions of events and
the reading of records by kind. Last, the laws of the device, as predicates of State. -/

namespace Sys2Proof.Machine

/-! ## One ring context -/

/-- The fetch state is idle. -/
def RingContext.idled (r : RingContext) : RingContext := { r with fetch := .idle }

/-- The records handed on for the ring and not yet written, oldest first (R125). -/
def RingContext.handed (r : RingContext) : List Completion := (r.writing.map (fun w => w.record)).toList ++ r.waiting

/-- One reservation less (R124). -/
def RingContext.freed (r : RingContext) : RingContext := { r with reserved := r.reserved - 1 }

/-- The write that would begin now with this record (R125). -/
def RingContext.writeOf (r : RingContext) (rec : Completion) : WriteInFlight :=
  { slot := r.cqProducer, phase := r.phase, lost := r.lost, record := rec }

/-- A record handed on: behind a write in flight it waits, and with none in flight the oldest record begins its write, which
takes the lost count with it (R125). -/
def RingContext.accepted (r : RingContext) (rec : Completion) : RingContext :=
  match r.writing, r.waiting with
  | some _, ws => { r with waiting := ws ++ [rec] }
  | none, [] => { r with writing := some (r.writeOf rec), lost := 0 }
  | none, old :: ws => { r with writing := some (r.writeOf old), waiting := ws ++ [rec], lost := 0 }

/-- The link access that the way from one context to a later one begins (R125). -/
def RingContext.begins (c : ClientId) (before after : RingContext) : List LinkOutput :=
  match before.writing, after.writing with
  | none, some w => [.writeBegin c (before.place.cqBase + BitVec.ofNat 64 (32 * w.slot)) (completionBytes w)]
  | _, _ => []

/-- A response: handed on, or for a client to which nothing is written its reservation released (R124). -/
def RingContext.answered (silent : Bool) (r : RingContext) (a : Response) : RingContext :=
  if silent then r.freed else r.accepted (.response a)

/-- A notice of the list claims a slot and is handed on (R126). -/
def RingContext.claimed (r : RingContext) (n : Notice) : RingContext :=
  { r with reserved := r.reserved + 1 }.accepted (.notice n)

/-- The drain of the pending-notice list (R126): as many of its oldest notices as there are free slots are handed on, and the
others stay. -/
def RingContext.drained (r : RingContext) : RingContext :=
  let k := min r.free r.notices.length
  (r.notices.take k).foldl RingContext.claimed { r with notices := r.notices.drop k }

/-- A notice for the ring of client `c` (R126): written when a slot is free and no notice waits, kept when it is no WATCH
notice and the list has room, counted lost otherwise. -/
def RingContext.noticed (c : ClientId) (r : RingContext) (n : Notice) : RingContext :=
  if 1 ≤ r.free ∧ r.notices = [] then r.claimed n
  else if !n.isWatch ∧ r.notices.length < (if c = 0 then 8 else 4) then { r with notices := r.notices ++ [n] }
  else { r with lost := if r.lost < 65535 then r.lost + 1 else r.lost }

/-- Ring context `c` is replaced, and the write that begins, if one does, goes out on the link. -/
def State.withRing (s : State) (c : ClientId) (r : RingContext) : State :=
  { s with rings := s.rings.set c r, linkOut := s.linkOut ++ (s.ring c).begins c r }

/-- A response handed to client `c`'s ring; every other part of the block stays. -/
def State.answeredTo (s : State) (c : ClientId) (a : Response) : State :=
  s.withRing c ((s.ring c).answered (s.client c).muted a)

/-- A notice handed to client `c`'s ring; a client to which nothing is written, or whose ring swap waits, drops it (R126, R127,
R134; with no write to the old ring in flight that is the model's choice, log entry 36). -/
def State.noticedTo (s : State) (c : ClientId) (n : Notice) : State :=
  if (s.client c).muted ∨ (s.client c).swap.isSome then s else s.withRing c ((s.ring c).noticed c n)

/-- The record in hand of `q` has been taken: the link carries nothing of earlier events, and the fetch state is idle (R123). -/
def State.recordTaken (s : State) (q : ClientId) : State :=
  { s with rings := s.rings.set q (s.ring q).idled, linkOut := [] }

/-- The response that belongs to the record in hand of `q`: its tag, and the consumer index as it stands (R123). -/
def State.responseTo (s : State) (q : ClientId) (r : Record) (status : Status) (body : Body) : Response :=
  { status := status, tag := Decode.field r 4 4, index := (s.ring q).sqConsumer, body := body }

/-- The record of `q` has been taken and answered, and nothing else has changed. -/
def State.replied (s : State) (q : ClientId) (r : Record) (status : Status) (body : Body) : State :=
  (s.recordTaken q).answeredTo q (s.responseTo q r status body)

/-- The same, for an answer handed on by a later state of the same event. -/
def State.alsoReplied (t s : State) (q : ClientId) (r : Record) (status : Status) (body : Body) : State :=
  t.answeredTo q (s.responseTo q r status body)

/-- One more charge on its way to the Standing Unit (R100). -/
def State.charged (s : State) (c : ClientId) (amount : Nat) : State :=
  { s with standingQueue := s.standingQueue ++ [.charge c amount] }

/-- The watch events of one lock event on their way to the Watch Filter (R9, R90). -/
def State.told (s : State) (evs : List WatchEvent) : State := { s with watchEvents := s.watchEvents ++ [evs] }

/-- A host link fault in the capture (R147): an empty latch takes it, and beside a full one the overflow count rises to at most
255. -/
def Capture.offered (c : Capture) (f : FaultInfo) : Capture :=
  match c.latch with
  | none => { latch := some f, overflow := c.overflow }
  | some g => { latch := some g, overflow := if c.overflow < 255 then c.overflow + 1 else c.overflow }

/-! ## The records of 11.1 -/

/-- The command that takes a record of each kind. -/
def commandOf : Decode.Opcode → ClientId → Instr
  | .acquire => .acquire
  | .tryAcquireSet => .tryAcquireSet
  | .release => .release
  | .renew => .renew
  | .upgrade => .upgrade
  | .downgrade => .downgrade
  | .cancel => .cancel
  | .watch => .watch
  | .unwatch => .unwatch
  | .nop => .nop
  | .configureClient => .configureClient
  | .enableClient => .enableClient
  | .disableClient => .disableClient
  | .resetClient => .resetClient
  | .reinstateClient => .reinstateClient
  | .setStanding => .setStanding
  | .forceRelease => .forceRelease
  | .queryLock => .queryLock
  | .queryClient => .queryClient
  | .setTimebase => .setTimebase
  | .setLimits => .setLimits

/-- The number in `len` bytes of a record from byte `off`, least significant byte first (chapter 11). -/
def bytesOf (r : Record) (off len : Nat) : Nat := r.toNat / 256 ^ off % 256 ^ len

/-- Byte 0 of each kind of record (11.1). -/
def opcodeByte : Decode.Opcode → Nat
  | .acquire => 0x01 | .tryAcquireSet => 0x02 | .release => 0x03 | .renew => 0x04 | .upgrade => 0x05
  | .downgrade => 0x06 | .cancel => 0x07 | .watch => 0x08 | .unwatch => 0x09 | .nop => 0x0A
  | .configureClient => 0x40 | .enableClient => 0x41 | .disableClient => 0x42 | .resetClient => 0x43
  | .reinstateClient => 0x44 | .setStanding => 0x45 | .forceRelease => 0x46 | .queryLock => 0x47
  | .queryClient => 0x48 | .setTimebase => 0x49 | .setLimits => 0x4A

/-- The fields of a record are in range, said on its bytes (R122 check 2, R153). -/
def inRange (r : Record) : Decode.Opcode → Bool
  | .acquire => bytesOf r 8 4 ≠ 0 ∧ bytesOf r 12 1 ≤ 1 ∧ bytesOf r 13 1 ≤ 7
  | .tryAcquireSet =>
    1 ≤ bytesOf r 8 1 ∧ bytesOf r 8 1 ≤ 8 ∧ ∀ p, p < bytesOf r 8 1 → bytesOf r (16 + 4 * p) 4 ≠ 0
  | .release | .renew | .upgrade | .downgrade | .forceRelease | .queryLock => bytesOf r 8 4 ≠ 0
  | .cancel | .unwatch | .nop => true
  | .watch => 1 ≤ bytesOf r 16 1 ∧ bytesOf r 16 1 ≤ 31
  | .configureClient => bytesOf r 8 1 ≤ 31 ∧ bytesOf r 9 1 ≤ 31
  | .enableClient | .disableClient | .resetClient | .reinstateClient | .setStanding | .queryClient => bytesOf r 8 1 ≤ 31
  | .setTimebase => 1 ≤ bytesOf r 8 2
  | .setLimits => 1 ≤ bytesOf r 10 2 ∧ 1 ≤ bytesOf r 12 2 ∧ 1 ≤ bytesOf r 14 2 ∧ bytesOf r 14 2 ≤ 65534

/-- The lock names that the name window judges (R122, check 4). -/
def windowNames (r : Record) : Decode.Opcode → List Name
  | .acquire | .release | .renew | .upgrade | .downgrade => [Decode.field r 8 4]
  | .tryAcquireSet => (List.range (Decode.fieldNat r 8 1)).map (fun p => Decode.field r (16 + 4 * p) 4)
  | .cancel | .watch | .unwatch | .nop | .configureClient | .enableClient | .disableClient | .resetClient => []
  | .reinstateClient | .setStanding | .forceRelease | .queryLock | .queryClient | .setTimebase | .setLimits => []

/-- The record's names lie in the client's name window. -/
def State.windowAdmits (s : State) (q : ClientId) (names : List Name) : Prop :=
  ∀ n ∈ names, n &&& (s.client q).config.windowMask = (s.client q).config.windowCode &&& (s.client q).config.windowMask

/-- The engine runs, and the record in hand of `q` has this opcode. The token counter has not passed its end, which it
never does (R17, `TokenLaw`). -/
structure Ready (s : State) (q : ClientId) (op : Decode.Opcode) (r : Record) : Prop where
  running : s.engine = .running
  inHand : (s.ring q).fetch = .inHand r
  opcode : bytesOf r 0 1 = opcodeByte op
  tokens : s.nextToken ≤ 2 ^ 64

/-- A privileged command stands ready on the control queue. -/
abbrev ReadyCommand (s : State) (op : Decode.Opcode) (r : Record) : Prop := Ready s 0 op r

/-! ## Clients -/

/-- The client can take a grant (R47). -/
def State.fit (s : State) (c : ClientId) : Prop :=
  (s.client c).state ≠ .isolated ∧ (s.client c).state ≠ .halted ∧ (s.client c).teardown = none

/-- The lease that a grant or renewal of client `q` takes from a lease field: 0 is the default, and a RESTRICTED client is
capped (R21, R105). -/
def State.leaseFor (s : State) (q : ClientId) (field : Nat) : Nat :=
  let lease := if field = 0 then (s.client q).config.defaultLease else field
  if (s.standing q).grade = .restricted then min lease s.limits.leaseCap else lease

/-- The wait of a record of client `q` as intake leaves it (R22, R105): none is without limit. -/
def State.waitFor (s : State) (q : ClientId) (field : Nat) : Option Nat :=
  let wait :=
    if (s.standing q).grade = .restricted ∧ (field = 65535 ∨ s.limits.waitCap < field) then s.limits.waitCap else field
  if wait = 65535 then none else some wait

/-- The priority of a record of client `q` as intake leaves it (R20, R105). -/
def State.priorityFor (s : State) (q : ClientId) (field : Nat) : Nat :=
  if (s.standing q).grade = .restricted then 7 else field

/-- Room for one more hold (R15). -/
def State.holdRoom (s : State) (c : ClientId) : Prop := (s.account c).holds.length < (s.client c).config.holdQuota

/-- Room for one more waiter or pending upgrade (R44). -/
def State.waitRoom (s : State) (c : ClientId) : Prop := (s.account c).waits < (s.client c).config.waitQuota

/-- What this client's account becomes, every other account as it was. -/
def State.withAccount (s : State) (c : ClientId) (a : Account) : State := { s with accounts := s.accounts.set c a }

/-- The account of a client is changed. -/
def State.mapAccount (s : State) (c : ClientId) (f : Account → Account) : State := s.withAccount c (f (s.account c))

/-- The account after one more ACQUIRE or UPGRADE of the client was taken (R53). -/
def Account.asked (a : Account) : Account := { a with requests := a.requests + 1 }

/-- The account with one more wait, and with one less (R44). -/
def Account.waiting (a : Account) : Account := { a with waits := a.waits + 1 }
@[inherit_doc Account.waiting] def Account.waited (a : Account) : Account := { a with waits := a.waits - 1 }

/-- The account with a hold appended (R14). -/
def Account.granted (a : Account) (name : Name) (token : Token) : Account :=
  { a with holds := a.holds ++ [{ name := name, token := token }] }

/-- The account after a hold of this token left it (R14). -/
def Account.letGo (a : Account) (token : Token) : Account := { a with holds := a.holds.filter (fun i => i.token != token) }

/-- The account after a hold of this token was taken away: the token heads the list of four (R14, R64). -/
def Account.lost (a : Account) (token : Token) : Account := { a.letGo token with expired := (token :: a.expired).take 4 }

/-- A change of grade is told: STANDING to the client, CLIENT_STANDING to the control queue on entering RESTRICTED; neither for
a client to which nothing is written (R103; to a client whose ring swap waits, log entry 36). -/
def State.tellGrade (s : State) (c : ClientId) (old new : Grade) (score : Nat) : State :=
  if old = new ∨ (s.client c).muted then s
  else
    let t := s.noticedTo c (.standing old new score)
    if new = .restricted then t.noticedTo 0 (.clientStanding c .enteredRestricted score) else t

/-- The grade of a score: GOOD below the warning threshold, WARNED from there on below the restricted threshold, RESTRICTED
from there on (R102). -/
def Limits.grades (l : Limits) (score : Nat) : Grade :=
  if score < l.warning then .good else if score < l.restricted then .warned else .restricted

/-- The client's score is set and its grade follows (R102, R103). -/
def State.rescored (s : State) (c : ClientId) (score : Nat) : State :=
  let new := s.limits.grades score
  { s with standings := s.standings.set c { score := score, grade := new } }.tellGrade c (s.standing c).grade new score

/-! ## Lock entries -/

/-- The entry has no holder of this client and no waiter of it (R4). -/
def LockEntry.without (e : LockEntry) (c : ClientId) : Prop :=
  (∀ (i : SlotId) (h : Holder), e.slots[i] = some h → h.client ≠ c) ∧ ∀ w ∈ e.waiters, w.client ≠ c

/-- Slot `i` is the lowest-numbered free holder slot (R5). -/
def LockEntry.lowestFree (e : LockEntry) (i : SlotId) : Prop := e.slots[i] = none ∧ ∀ j, j < i → e.slots[j] ≠ none

/-- Slot `i` is occupied, and alone. -/
def LockEntry.sole (e : LockEntry) (i : SlotId) (h : Holder) : Prop :=
  e.slots[i] = some h ∧ ∀ j, j ≠ i → e.slots[j] = none

/-- The number of holds (R3). -/
def LockEntry.holds (e : LockEntry) : Nat := (e.slots.toList.filter Option.isSome).length

/-- Slot `i` is the lowest occupied one (R5). -/
def LockEntry.firstHeld (e : LockEntry) (i : SlotId) (h : Holder) : Prop :=
  e.slots[i] = some h ∧ ∀ j, j < i → e.slots[j] = none

/-- The contention report of R28, with the first holder and the waiters ahead given. -/
def LockEntry.reportWith (e : LockEntry) (first : Holder) (ahead : Nat) : Report :=
  { holder := first.client, holders := e.holds, ahead := ahead, mode := e.mode }

/-- The contention count after one more blocked request (R13). -/
def LockEntry.hotter (e : LockEntry) : Nat := if e.contention < 65535 then e.contention + 1 else e.contention

/-- The hold of a grant. -/
def grantedHold (c : ClientId) (token : Nat) (m : Mode) (lease : Nat) (tag : Tag) : Holder :=
  { client := c, token := BitVec.ofNat 64 token, mode := m, lease := lease, tag := tag, expiryRaised := false }

/-- A request of mode `m` is grantable at once on the resident entry (R26). -/
def LockEntry.admitsAtOnce (e : LockEntry) (m : Mode) : Prop :=
  e.mode = .shared ∧ m = .shared ∧ (∃ i, e.lowestFree i) ∧ e.waiters = [] ∧ e.upgrade = none

/-- The waiters that stand ahead of a newcomer of priority `p` (R28, R31). -/
def LockEntry.ahead (e : LockEntry) (p : Nat) : List Waiter := e.waiters.filter (fun w => w.priority ≤ p)

/-- A grant pass that finds this list behind a holder of the entry ends at once: the list is empty, or its head's client can
take a grant and the head is EXCLUSIVE (R47, R48). -/
def State.stuckBehind (s : State) (waiters : List Waiter) : Prop :=
  ∀ w, waiters.head? = some w → s.fit w.client ∧ w.mode = .exclusive

/-- The entry that a grant to an absent name creates (R10). -/
def newEntry (name : Name) (h : Holder) : LockEntry :=
  { name := name, mode := h.mode, slots := (Vector.replicate 8 none).set 0 (some h), waiters := [], upgrade := none,
    contention := 0 }

/-- A set passes every check of R37 before the tokens: no name twice, none held or waited on, room under the hold quota and in the
table, and every resident name grantable at once. -/
structure State.grantsSet (s : State) (q : ClientId) (positions : List (Name × Mode)) : Prop where
  distinct : (positions.map Prod.fst).Nodup
  apart : ∀ n ∈ positions.map Prod.fst, ∀ e, s.entry? n = some e → e.without q
  quota : (s.account q).holds.length + positions.length ≤ (s.client q).config.holdQuota
  room : (positions.filter (fun p => (s.entry? p.1).isNone)).length ≤ s.freeEntries
  admitted : ∀ p ∈ positions, ∀ e, s.entry? p.1 = some e → e.admitsAtOnce p.2

/-- The table of `t` is that of `s`, but at one name, which is looked up as given. -/
def State.differsAt (s t : State) (name : Name) (e : Option LockEntry) : Prop :=
  t.entry? name = e ∧ ∀ m, m ≠ name → t.entry? m = s.entry? m

/-- The entry holds at slot `i` this client's hold with this token, and at no lower slot (R4, R63). -/
def State.holdsAt (s : State) (c : ClientId) (name : Name) (token : Token) (e : LockEntry) (i : SlotId) (h : Holder) : Prop :=
  s.entry? name = some e ∧ e.slots[i] = some h ∧ h.client = c ∧ h.token = token ∧
    ∀ (j : SlotId) (k : Holder), j < i → e.slots[j] = some k → ¬ (k.client = c ∧ k.token = token)

/-- No slot of the named lock carries the token for this client. -/
def State.holdsNot (s : State) (c : ClientId) (name : Name) (token : Token) : Prop :=
  ∀ (e : LockEntry) (i : SlotId) (h : Holder), s.entry? name = some e → e.slots[i] = some h →
    ¬ (h.client = c ∧ h.token = token)

/-! ## The laws of the device -/

/-- The laws of one resident entry (R1, R3, R4, R7, R43). -/
structure LockEntry.Lawful (e : LockEntry) : Prop where
  /-- At least one holder (R3). -/
  held : 1 ≤ e.holds
  /-- An EXCLUSIVE entry has exactly one (R3). -/
  alone : e.mode = .exclusive → e.holds = 1
  /-- The entry's mode is the mode of every holder (R3). -/
  modes : ∀ (i : SlotId) (h : Holder), e.slots[i] = some h → h.mode = e.mode
  /-- Never two holder records of one client (R4). -/
  oneHold : ∀ (i j : SlotId) (h k : Holder), e.slots[i] = some h → e.slots[j] = some k → h.client = k.client → i = j
  /-- Never a holder record and a waiter record of one client (R4). -/
  holdOrWait : ∀ (i : SlotId) (h : Holder), e.slots[i] = some h → ∀ w ∈ e.waiters, w.client ≠ h.client
  /-- Never two waiter records of one client (R43). -/
  oneWait : (e.waiters.map (fun w => w.client)).Nodup
  /-- The list stands in non-decreasing priority (R43). -/
  ordered : e.waiters.Pairwise (fun a b => a.priority ≤ b.priority)
  /-- A pending upgrade belongs to a current SHARED holder (R7), which is not alone (R72). -/
  upgrade : ∀ u, e.upgrade = some u →
    e.mode = .shared ∧ 2 ≤ e.holds ∧ ∃ h, e.slots[u.slot] = some h ∧ h.client = u.client

/-- The lock table: names strictly rising, so each resident once, and every entry lawful. -/
structure TableLaw (s : State) : Prop where
  names : s.table.Pairwise (fun a b => a.name < b.name)
  entries : ∀ e ∈ s.table, e.Lawful

/-- Nothing of the fixed capacities is lost or made: every lock entry is resident or free, every waiter record in a list or
free (R10, R12, R42). -/
structure CapacityLaw (s : State) : Prop where
  entries : s.freeEntries + s.table.length = 4096
  waiters : s.poolFree + (s.table.map (fun e => e.waiters.length)).sum = 2048

/-- The grant-token counter: 1 at the lowest, and at the end of its range at the highest (R16, R17). -/
structure TokenLaw (s : State) : Prop where
  low : 1 ≤ s.nextToken
  high : s.nextToken ≤ 2 ^ 64

/-- Client 0 is ACTIVE with its fixed configuration, never under teardown, never charged (R99, R130). -/
structure ControlLaw (s : State) : Prop where
  record : s.client 0 = ClientRecord.control
  standing : s.standing 0 = Standing.reset

/-- The watch table: at most 64 entries, at most 8 of one client, a client's tags distinct (R88, R91). -/
structure WatchLaw (s : State) : Prop where
  entries : s.watches.length ≤ 64
  owned : ∀ c, (s.watches.filter (fun w => w.owner == c)).length ≤ 8
  tags : s.watches.Pairwise (fun a b => ¬ (a.owner = b.owner ∧ a.tag = b.tag))

/-- Every write that the link was told of by the last event taken is in flight, in the slot at the producer index, at that
slot's address and with its bytes (R125, R154). `linkOut` is the model's own field (DESIGN CHOICE, log entry 12). -/
def LinkLaw (s : State) : Prop :=
  ∀ c a b, LinkOutput.writeBegin c a b ∈ s.linkOut →
    ∃ w, (s.ring c).writing = some w ∧ w.slot = (s.ring c).cqProducer ∧ b = completionBytes w ∧
      a = (s.ring c).place.cqBase + BitVec.ofNat 64 (32 * w.slot)

/-! ## The laws of the clients -/

/-- The waits of a client that the lock table holds: its waiters and its pending upgrades (R44). -/
def State.waitsOf (s : State) (c : ClientId) : Nat :=
  (s.table.map (fun e => (e.waiters.filter (fun w => w.client == c)).length +
    if e.upgrade.any (fun u => u.client == c) then 1 else 0)).sum

/-- Each account is what the lock table says: the wait count, and the hold list item for item, in the order of the grants
(R14, R16, R44). -/
structure AccountLaw (s : State) : Prop where
  waits : ∀ c, (s.account c).waits = s.waitsOf c
  listed : ∀ c, ∀ i ∈ (s.account c).holds, ∃ e ∈ s.table, e.name = i.name ∧
    ∃ k : SlotId, ∃ h ∈ e.slots[k], h.client = c ∧ h.token = i.token
  held : ∀ e ∈ s.table, ∀ k : SlotId, ∀ h ∈ e.slots[k], { name := e.name, token := h.token } ∈ (s.account h.client).holds
  ordered : ∀ c, (s.account c).holds.Pairwise (fun i j => i.token.toNat < j.token.toNat)
  drawn : ∀ c, ∀ i ∈ (s.account c).holds, i.token.toNat < s.nextToken

/-- The sixth law: no client above its hold quota, nor above its wait quota (R15, R44). A HALTED client is left out: a ring swap
that fails gives it back the quotas it had before its CONFIGURE_CLIENT (R134), and where it was enabled in between, its halt
teardown has yet to remove what it acquired under the new ones (log entry 10). -/
structure QuotaLaw (s : State) : Prop where
  holds : ∀ c, (s.client c).state ≠ .halted → (s.account c).holds.length ≤ (s.client c).config.holdQuota
  waits : ∀ c, (s.client c).state ≠ .halted → (s.account c).waits ≤ (s.client c).config.waitQuota

/-- Commands of the control queue whose answers wait, for a teardown or for a ring swap (R133, R134, R137). -/
def State.answersOwed (s : State) : Nat :=
  (Config.allClients.map (fun c =>
    (if (s.client c).teardown.any (fun t => t.waiting.isSome) then 1 else 0) +
      match (s.client c).swap with | none => 0 | some w => w.waiting.length)).sum

/-- What is reserved on a client's completion ring: a slot for each record handed on, for the record fetched or in hand, for
each wait, and on the control ring for each command whose answer waits (R115, R121, R124). -/
def State.reservedFor (s : State) (c : ClientId) : Nat :=
  (s.ring c).handed.length + (if (s.ring c).fetch = .idle then 0 else 1) + (s.account c).waits +
    if c = 0 then s.answersOwed else 0

/-- The fifth law: occupied and reserved slots are never more than the completion ring has (R115), and the reservation count is
the number of the slots that are owed. -/
structure RingLaw (s : State) : Prop where
  room : ∀ c, (s.ring c).occupied + (s.ring c).reserved ≤ (s.ring c).place.cqSize
  reserved : ∀ c, (s.ring c).reserved = s.reservedFor c
  /-- The writer idles only with nothing to write (R125), until the engine is HALTED (R128). -/
  writer : s.engine ≠ .halted → ∀ c, (s.ring c).writing = none → (s.ring c).waiting = []
  /-- No record waits for a client to which nothing is written (R127). -/
  silent : ∀ c, (s.client c).muted = true → (s.ring c).waiting = []
  /-- Before START the control ring is unused (R128). -/
  unused : s.engine = .stopped → (s.ring 0).occupied = 0 ∧ (s.ring 0).reserved = 0

/-- The tenth law: a client UNCONFIGURED, ISOLATED, RECOVERING or HALTED and not under teardown has no holder, waiter,
pending-upgrade or watch record, and nor has one whose recovery is pending (R132, R136). -/
structure IdleLaw (s : State) : Prop where
  idle : ∀ c, (s.client c).teardown = none →
    (s.client c).state ∈ [.unconfigured, .isolated, .recovering, .halted] ∨ (s.client c).recoveryPending = true →
    (s.account c).holds = [] ∧ (s.account c).waits = 0 ∧ (∀ w ∈ s.watches, w.owner ≠ c) ∧ (s.ring c).fetch = .idle

/-- The eleventh law: each grade is that of the score under the thresholds (R102), with what the client's state says of its
score (R99, R106, R107, R108, R112) and of its teardown (R132, R137). -/
structure StandingLaw (s : State) : Prop where
  limits : 1 ≤ s.limits.warning ∧ s.limits.warning < s.limits.restricted ∧ s.limits.restricted ≤ 254
  grade : ∀ c, (s.standing c).grade = s.limits.grades (s.standing c).score
  top : ∀ c, (s.standing c).score ≤ 255
  active : ∀ c, (s.client c).state = .active → (s.standing c).score < 255
  isolated : ∀ c, (s.client c).state ∈ [.isolated, .recovering] ∨ (s.client c).recoveryPending = true →
    (s.standing c).score = 255
  unconfigured : ∀ c, (s.client c).state = .unconfigured → (s.standing c).score = 0
  apart : ∀ c, (s.client c).state ∈ [.unconfigured, .active, .recovering] → (s.client c).teardown = none
  pending : ∀ c, (s.client c).recoveryPending = true → (s.client c).state ∈ [.disabled, .halted]
  reset : ∀ c, ∀ t ∈ (s.client c).teardown, t.cause = .reset → (s.client c).recoveryPending = false
  charged : ∀ x ∈ s.standingQueue, ∀ c n, x = .charge c n → (s.client c).state ≠ .unconfigured

/-- The laws of the clients together; each rests on the others and on the laws of the lock table. -/
structure ClientLaws (s : State) : Prop where
  accounts : AccountLaw s
  quotas : QuotaLaw s
  rings : RingLaw s
  idle : IdleLaw s
  standing : StandingLaw s

/-! ## The bytes of a completion record -/

/-- The record says these fields, each a byte offset, a length and a value, least significant byte first, and every byte that
none of them covers is 0 (R154). -/
def BytesSay (b : CompletionBytes) (fields : List (Nat × Nat × Nat)) : Prop :=
  (∀ f ∈ fields, b.toNat / 256 ^ f.1 % 256 ^ f.2.1 = f.2.2) ∧
    ∀ k, k < 32 → (∀ f ∈ fields, ¬ (f.1 ≤ k ∧ k < f.1 + f.2.1)) → b.toNat / 256 ^ k % 256 = 0

end Sys2Proof.Machine
end

