-- ==== Sys2Proof/Certificates/Slice0/Obligations.lean ====
section
/-! DEFINITION. The statements for the provers. Each is about one command, one event or the whole block; its docstring names the
rules of the manual that it rests on. Where a statement rests on a choice of the model, the docstring says so and names the log
entry (notes/assumptions). `Ready s q op r` reads: the engine runs and the record `r` of kind `op` is in hand for queue
pair `q`. -/

open Sys2Proof Sys2Proof.Machine

/-! ## The block as a whole -/

/-- A step takes the command at the front of the queue, and runs it on the state with the rest of the queue. -/
def Obligations.StepRunsTheFrontCommand : Prop :=
  ∀ (s : State) (c : Instr) (rest : List Instr), s.pending = c :: rest → step s = exec c { s with pending := rest }

/-- Right after power-on every block holds the values that the manual gives for reset (R19, R42, R44, R53, R64, R78, R88, R99,
R104, R114, R129, R147, R148, R152). -/
def Obligations.ResetValues : Prop :=
  let s := State.reset
  (s.engine = .stopped ∧ s.haltCause = .none ∧ s.startRefusal = .none ∧ s.capture.latch = none ∧ s.capture.overflow = 0) ∧
  (s.table = [] ∧ s.freeEntries = 4096 ∧ s.nextToken = 1 ∧ s.poolFree = 2048 ∧ s.watches = [] ∧ s.roundRobin = 0) ∧
  (∀ c, s.account c = { holds := [], waits := 0, expired := [], requests := 0 }) ∧
  (∀ c, s.standing c = { score := 0, grade := .good }) ∧
  s.limits = { warning := 64, restricted := 160, recovery := 200, leaseCap := 250, waitCap := 250 } ∧
  (s.clock.period = 100 ∧ s.clock.elapsed = 0 ∧ s.clock.owed = [] ∧ ∀ c, s.recovery c = 0) ∧
  (s.client 0).state = .active ∧ (∀ c, c ≠ 0 → (s.client c).state = .unconfigured) ∧
  (∀ c, (s.client c).teardown = none ∧ (s.client c).recoveryPending = false) ∧
  (∀ c, let r := s.ring c
    r.sqConsumer = 0 ∧ r.sqPosted = 0 ∧ r.cqProducer = 0 ∧ r.phase = true ∧ r.consumedHead = 0 ∧ r.occupied = 0 ∧
    r.reserved = 0 ∧ r.notices = [] ∧ r.lost = 0 ∧ r.armed = false ∧ r.fetch = .idle) ∧
  (∀ offset : BitVec 12, 0x010 ≤ offset → offset ≤ 0x020 → s.readRegister offset = 0)

/-- An engine soft reset, from any state, leaves every block at its reset values, but keeps the control ring registers, which
place client 0's rings, and the fault capture; with START in the same word, a START follows it. It begins a new epoch, and the host
link's report of an access of another epoch than the present is ignored in every state, an error included (R148, R151). That an epoch
counts the resets, and that a report says the epoch of its access, is the model's way to tell them (log entry 15). -/
def Obligations.SoftResetClearsEveryBlock : Prop :=
  (∀ s : State, ∃ t,
    exec (.softReset false) s = .next t ∧ exec (.softReset true) s = exec .start t ∧
    t = { State.reset with
          pending := s.pending, epoch := s.epoch + 1, regs := s.regs, capture := s.capture,
          rings := State.reset.rings.set 0 { State.reset.ring 0 with
            place := { sqBase := s.regs.sqBaseHigh ++ s.regs.sqBaseLow, sqSize := s.regs.sizes.toNat % 65536,
                       cqBase := s.regs.cqBaseHigh ++ s.regs.cqBaseLow, cqSize := s.regs.sizes.toNat / 65536 } } }) ∧
  ∀ (s : State) (epoch : Epoch) (c : ClientId) (bytes : Record) (kind : FaultKind), epoch ≠ s.epoch →
    exec (.fetchReadReturn ⟨c, epoch⟩ bytes) s = .next s ∧ exec (.completionWriteEnd ⟨c, epoch⟩) s = .next s ∧
    exec (.clientSubmissionReadFault ⟨c, epoch⟩ kind) s = .next s ∧ exec (.clientCompletionWriteFault ⟨c, epoch⟩ kind) s = .next s ∧
    exec (.controlReadFault ⟨kind, epoch⟩) s = .next s ∧ exec (.controlWriteFault ⟨kind, epoch⟩) s = .next s

/-- Power-on and host link reset have every effect of a soft reset, and clear the control ring registers and the capture
besides; a START then is refused, and IDENT reads as before (R152). -/
def Obligations.PowerOnAndLinkReset : Prop :=
  ∀ s : State, ∃ t u,
    exec .powerOn s = .next t ∧ exec .hostLinkReset s = .next t ∧ exec (.softReset false) s = .next u ∧
    t = { u with regs := t.regs, capture := t.capture, rings := u.rings.set 0 { u.ring 0 with place := (t.ring 0).place } } ∧
    (∀ offset : BitVec 12, 0x010 ≤ offset → offset ≤ 0x020 → t.readRegister offset = 0) ∧
    t.regs = { sqBaseLow := 0, sqBaseHigh := 0, cqBaseLow := 0, cqBaseHigh := 0, sizes := 0 } ∧
    t.capture = { latch := none, overflow := 0 } ∧
    exec .start t = .next { t with startRefusal := .badControlRing } ∧
    t.readRegister 0x000 = s.readRegister 0x000

/-- While the engine is HALTED an engine reset is the one way on; besides it, FAULT CLEAR empties the capture, the report of a
fault of an access that was in flight is offered to the capture, and every other command leaves the block as it is (R116, R128,
R144, R147, R150), the report of an access that an earlier reset abandoned too (R151, log entry 15). The model's choices here: the
report of a fault also empties `linkOut`, the model's own field (log entry 12), and the access it reports stays in flight as it stood
(log entry 13). -/
def Obligations.HaltedEngineIsFrozen : Prop :=
  ∀ s : State, s.engine = .halted →
    let cleared : State := { s with capture := { latch := none, overflow := 0 } }
    let offered := fun (f : FaultInfo) => { s with capture := s.capture.offered f, linkOut := [] }
    let reads := fun (c : ClientId) (k : Nat) => ∃ left, (s.ring c).fetch = .fetching k left
    let resets := fun (i : Instr) => (∃ b, i = .softReset b) ∨ i = .powerOn ∨ i = .hostLinkReset ∨
      ∃ v, i = .registerWrite 0x004 v ∧ v.getLsbD 1 = true
    let clears := fun (i : Instr) => ∃ v, i = .faultClear v ∨ i = .registerWrite 0x088 v
    let reports := fun (i : Instr) =>
      (∃ c kind, i = .clientSubmissionReadFault ⟨c, s.epoch⟩ kind ∧ c ≠ 0 ∧ ∃ k, reads c k) ∨
      (∃ c kind, i = .clientCompletionWriteFault ⟨c, s.epoch⟩ kind ∧ c ≠ 0 ∧ (s.ring c).writing ≠ none) ∨
      (∃ kind, i = .controlReadFault ⟨kind, s.epoch⟩ ∧ ∃ k, reads 0 k) ∨
      (∃ kind, i = .controlWriteFault ⟨kind, s.epoch⟩ ∧ (s.ring 0).writing ≠ none)
    (∀ i, clears i → exec i s = .next cleared) ∧
    (∀ c kind k, c ≠ 0 → reads c k → exec (.clientSubmissionReadFault ⟨c, s.epoch⟩ kind) s =
      .next (offered { client := c, ring := .submission, index := k, kind := kind })) ∧
    (∀ c kind w, c ≠ 0 → (s.ring c).writing = some w → exec (.clientCompletionWriteFault ⟨c, s.epoch⟩ kind) s =
      .next (offered { client := c, ring := .completion, index := w.slot, kind := kind })) ∧
    (∀ kind k, reads 0 k → exec (.controlReadFault ⟨kind, s.epoch⟩) s =
      .next (offered { client := 0, ring := .submission, index := k, kind := kind })) ∧
    (∀ kind w, (s.ring 0).writing = some w → exec (.controlWriteFault ⟨kind, s.epoch⟩) s =
      .next (offered { client := 0, ring := .completion, index := w.slot, kind := kind })) ∧
    ∀ i, ¬ resets i → ¬ clears i → ¬ reports i → exec i s = .next s

/-! ## Laws that every step keeps -/

/-- The laws of the lock table hold after a step from any state in which they hold (R1, R3, R4, R7, R43). -/
def Obligations.EveryStepKeepsTheTableLaw : Prop :=
  ∀ s t : State, TableLaw s → step s = .next t → TableLaw t

/-- No lock entry and no waiter record is lost or made by a step (R10, R12, R42). -/
def Obligations.EveryStepKeepsTheCapacities : Prop :=
  ∀ s t : State, TableLaw s → CapacityLaw s → step s = .next t → CapacityLaw t

/-- Each of four laws holds after a step from any state in which it holds: the token counter never passes 2^64 (R16, R17); client 0
stays ACTIVE with its fixed configuration, with score 0 and grade GOOD, and never under teardown (R99, R130); the watch table keeps
its limits, and each client's tags stay distinct (R88, R91); and, beside the laws of the table, the laws of the clients: the accounts
say what the table says (R14, R44), no client but a HALTED one is above its quotas (R15, R44), occupied and reserved slots never
exceed a completion ring (R115), an idle client not under teardown has no record (R132), and each grade follows its score (R102). Two
of these rest on the model's reading of a client enabled while its ring swap waits (log entry 10): its reservations stay through the
swap, and a HALTED client is left out of the quotas. -/
def Obligations.EveryStepKeepsTheSmallLaws : Prop :=
  (∀ s t : State, TokenLaw s → step s = .next t → TokenLaw t) ∧
  (∀ s t : State, ControlLaw s → step s = .next t → ControlLaw t) ∧
  (∀ s t : State, WatchLaw s → step s = .next t → WatchLaw t) ∧
  (∀ s t : State, TableLaw s → TokenLaw s → ControlLaw s → ClientLaws s → step s = .next t → ClientLaws t)

/-- What the link was told of a completion write is what is in flight: the bytes of the record, in the slot at the producer index
and at that slot's address (R125, R154). And no step goes back to an earlier epoch, so that the report of an access that a reset has
abandoned is ignored ever after (R151). What the link was told stands in `linkOut`, and the epoch in `epoch`, two fields of the
model's own: DESIGN CHOICE, log entries 12 and 15. -/
def Obligations.EveryStepKeepsTheLinkLaw : Prop :=
  (∀ s t : State, LinkLaw s → step s = .next t → LinkLaw t) ∧
  ∀ s t : State, step s = .next t → s.epoch ≤ t.epoch

/-- The laws hold right after power-on. -/
def Obligations.ResetMeetsTheLaws : Prop :=
  TableLaw State.reset ∧ CapacityLaw State.reset ∧ TokenLaw State.reset ∧ ControlLaw State.reset ∧ WatchLaw State.reset ∧
    LinkLaw State.reset ∧ ClientLaws State.reset

/-! ## Intake -/

/-- The checks of intake, in their order, for every kind of record: a byte out of its range is BAD_REQUEST and a charge of 2, a
command on another queue pair PRIVILEGE and 8, a name outside the window NAME_DENIED and 4; each refusal is the record's one
response, and nothing else changes. The ranges are those of `inRange`, said on the record's bytes (R122, R153). -/
def Obligations.IntakeRefusalsInOrder : Prop :=
  ∀ (op : Decode.Opcode) (q : ClientId) (s : State) (r : Record), Ready s q op r →
    (inRange r op = false →
      exec (commandOf op q) s = .next ((s.replied q r .badRequest .empty).charged q 2)) ∧
    (inRange r op = true → op.isCommand = true → q ≠ 0 →
      exec (commandOf op q) s = .next ((s.replied q r .privilege .empty).charged q 8)) ∧
    (inRange r op = true → (op.isCommand = true → q = 0) → ¬ s.windowAdmits q (windowNames r op) →
      exec (commandOf op q) s = .next ((s.replied q r .nameDenied .empty).charged q 4))

/-- A record whose byte 0 is none of 0x01 to 0x0A and 0x40 to 0x4A is refused BAD_REQUEST with a charge of 2, and a NOP, 0x0A, is
answered OK; each changes nothing else (R122, R123, R153). -/
def Obligations.NopAndUnknownOpcode : Prop :=
  ∀ (q : ClientId) (s : State) (r : Record), s.engine = .running → (s.ring q).fetch = .inHand r →
    (¬ (0x01 ≤ bytesOf r 0 1 ∧ bytesOf r 0 1 ≤ 0x0A) → ¬ (0x40 ≤ bytesOf r 0 1 ∧ bytesOf r 0 1 ≤ 0x4A) →
      exec (.unknownOpcode q) s = .next ((s.replied q r .badRequest .empty).charged q 2)) ∧
    (bytesOf r 0 1 = 0x0A → exec (.nop q) s = .next (s.replied q r .ok .empty))

/-! ## Acquiring locks -/

/-- An ACQUIRE that is grantable at once is granted in its event, on a new entry for an absent name, in the lowest free slot of a
resident SHARED entry otherwise: next token, hold list, GRANTED watch event, GRANTED response without a report; nothing else
changes (R10, R14, R16, R26, R27). -/
def Obligations.AcquireGrantsAtOnce : Prop :=
  ∀ (q : ClientId) (s : State) (r : Record) (f : Decode.AcquireFields),
    Ready s q .acquire r → Decode.acquireFields r = some f → s.windowAdmits q [f.name] → s.holdRoom q → s.nextToken < 2 ^ 64 →
    let token : Token := BitVec.ofNat 64 s.nextToken
    let hold := grantedHold q s.nextToken f.mode (s.leaseFor q f.lease) (Decode.tag r)
    let after := fun (t : State) (free : Nat) =>
      t = { ((s.replied q r .granted (.granted token hold.lease 0 none 1)).told
              [{ kind := .granted, name := f.name, client := q, token := token, mode := f.mode }]).mapAccount q
                (fun a => a.asked.granted f.name token) with
            table := t.table, freeEntries := free, nextToken := s.nextToken + 1 }
    (s.entry? f.name = none → s.freeEntries ≠ 0 →
      ∃ t, exec (.acquire q) s = .next t ∧ after t (s.freeEntries - 1) ∧ s.differsAt t f.name (some (newEntry f.name hold))) ∧
    (∀ e i, s.entry? f.name = some e → e.without q → e.admitsAtOnce f.mode → e.lowestFree i →
      ∃ t, exec (.acquire q) s = .next t ∧ after t s.freeEntries ∧
        s.differsAt t f.name (some { e with slots := e.slots.set i (some hold) }))

/-- The refusals of an ACQUIRE in the order of R23, each with its response and its contention count, and nothing else but the
request count changed (R11, R13, R24, R25, R28, R29, R30, R53). -/
def Obligations.AcquireRefusalsInOrder : Prop :=
  ∀ (q : ClientId) (s : State) (r : Record) (f : Decode.AcquireFields),
    Ready s q .acquire r → Decode.acquireFields r = some f → s.windowAdmits q [f.name] →
    let refused := fun (status : Status) (body : Body) => (s.replied q r status body).mapAccount q Account.asked
    let refusedHotter := fun (e : LockEntry) (status : Status) (body : Body) => ∃ t,
      exec (.acquire q) s = .next t ∧ t = { refused status body with table := t.table } ∧
        s.differsAt t f.name (some { e with contention := e.hotter })
    (∀ (e : LockEntry) (i : SlotId) (h : Holder), s.entry? f.name = some e → e.slots[i] = some h → h.client = q →
      exec (.acquire q) s = .next (refused .alreadyHeld .empty)) ∧
    (∀ (e : LockEntry) (w : Waiter), s.entry? f.name = some e → w ∈ e.waiters → w.client = q →
      (∀ (i : SlotId) (h : Holder), e.slots[i] = some h → h.client ≠ q) →
      exec (.acquire q) s = .next (refused .duplicateWait .empty)) ∧
    ((∀ e, s.entry? f.name = some e → e.without q) → ¬ s.holdRoom q →
      exec (.acquire q) s = .next (refused .quotaHolds .empty)) ∧
    (s.entry? f.name = none → s.holdRoom q → s.freeEntries = 0 →
      exec (.acquire q) s = .next (refused .tableFull .empty)) ∧
    (∀ (e : LockEntry) (i : SlotId) (h : Holder), s.entry? f.name = some e → e.without q → s.holdRoom q →
      ¬ e.admitsAtOnce f.mode → e.firstHeld i h →
      (s.waitFor q f.wait = some 0 →
        refusedHotter e .busy (.busy (e.reportWith h (e.ahead (s.priorityFor q f.priority)).length) 0)) ∧
      (s.waitFor q f.wait ≠ some 0 → ¬ s.waitRoom q → refusedHotter e .quotaWaits .empty) ∧
      (s.waitFor q f.wait ≠ some 0 → s.waitRoom q → s.poolFree = 0 → refusedHotter e .poolEmpty .empty))

/-- An ACQUIRE that can neither be granted nor is refused becomes a waiter: a record of the pool, filled as R31 gives, after every
waiter of equal or more urgent priority; no response yet. At the head of the list the grant pass runs: stuck, it leaves the waiter
there; at a SHARED entry with a free slot it grants a SHARED newcomer in the same event, its record back in the pool, with the
report of its insertion, and then stops at the next waiter (R28, R31, R32, R41, R43, R44, R48, R50). -/
def Obligations.AcquireWaitsInPriorityOrder : Prop :=
  ∀ (q : ClientId) (s : State) (r : Record) (f : Decode.AcquireFields) (e : LockEntry) (i : SlotId) (h : Holder),
    Ready s q .acquire r → Decode.acquireFields r = some f → s.windowAdmits q [f.name] →
    s.entry? f.name = some e → e.Lawful → e.without q → s.holdRoom q → ¬ e.admitsAtOnce f.mode → e.firstHeld i h →
    s.waitFor q f.wait ≠ some 0 → s.waitRoom q → s.poolFree ≠ 0 →
    let p := s.priorityFor q f.priority
    let lease := s.leaseFor q f.lease
    let report := e.reportWith h (e.ahead p).length
    let x : Waiter :=
      { client := q, tag := Decode.tag r, order := (s.account q).requests + 1, mode := f.mode, priority := p,
        wait := s.waitFor q f.wait, lease := lease, waited := 0, report := report, index := (s.ring q).sqConsumer,
        expiryRaised := false }
    (e.ahead p ≠ [] ∨
      (s.fit q ∧ (∀ u, e.upgrade = some u → s.fit u.client) ∧
        (e.upgrade = none → ¬ (f.mode = .shared ∧ e.mode = .shared ∧ ∃ j, e.lowestFree j))) →
      ∃ t, exec (.acquire q) s = .next t ∧
        t = { (s.recordTaken q).mapAccount q (fun a => a.asked.waiting) with table := t.table, poolFree := s.poolFree - 1 } ∧
        s.differsAt t f.name (some { e with
          waiters := e.ahead p ++ [x] ++ e.waiters.filter (fun w => !(w.priority ≤ p)), contention := e.hotter })) ∧
    (∀ j, e.ahead p = [] → s.fit q → e.upgrade = none → f.mode = .shared → e.mode = .shared → e.lowestFree j →
      s.nextToken < 2 ^ 64 →
      (∀ y, e.waiters.head? = some y → s.fit y.client ∧ (y.mode = .exclusive ∨ ∀ k, k ≠ j → e.slots[k] ≠ none)) →
      let token : Token := BitVec.ofNat 64 s.nextToken
      ∃ t, exec (.acquire q) s = .next t ∧
        t = { ((s.replied q r .granted (.granted token lease 0 (some report) 1)).told
                [{ kind := .granted, name := f.name, client := q, token := token, mode := .shared }]).mapAccount q
                  (fun a => a.asked.granted f.name token) with
              table := t.table, nextToken := s.nextToken + 1 } ∧
        s.differsAt t f.name (some { e with
          slots := e.slots.set j (some (grantedHold q s.nextToken .shared lease (Decode.tag r))), contention := e.hotter }))

/-- An event whose grants would need a token beyond 2^64 − 1 is not taken: the engine halts with cause TOKEN_SPACE, and everything
else, the record in hand too, stands as it stood. So for an ACQUIRE; for a set that needs more tokens than are left; and, with the
counter at its end, for a RELEASE or a lease expiry of a sole hold whose grant pass would grant the head waiter
(R17, R27, R39, R48, R149). -/
def Obligations.TokenSpaceHaltsTheEngine : Prop :=
  ∀ (q : ClientId) (s : State) (r : Record),
    let halted : State := { s with engine := .halted, haltCause := .tokenSpace, linkOut := [] }
    let passGrants := fun (e : LockEntry) => e.upgrade = none ∧
      ∃ x, e.waiters.head? = some x ∧ s.fit x.client ∧ s.holdRoom x.client
    (∀ f, Ready s q .acquire r → Decode.acquireFields r = some f → s.windowAdmits q [f.name] → s.holdRoom q →
      s.nextToken = 2 ^ 64 →
      ((s.entry? f.name = none ∧ s.freeEntries ≠ 0) ∨
        (∃ e, s.entry? f.name = some e ∧ e.without q ∧ e.admitsAtOnce f.mode)) →
      exec (.acquire q) s = .next halted) ∧
    (∀ f, Ready s q .tryAcquireSet r → Decode.setFields r = some f → s.windowAdmits q (f.positions.map Prod.fst) →
      s.grantsSet q f.positions → 2 ^ 64 < s.nextToken + f.positions.length →
      exec (.tryAcquireSet q) s = .next halted) ∧
    (∀ f e i h, Ready s q .release r → Decode.holdFields r = some f → s.windowAdmits q [f.name] →
      s.holdsAt q f.name f.token e i h → e.sole i h → passGrants e → s.nextToken = 2 ^ 64 →
      exec (.release q) s = .next halted) ∧
    (∀ name e i h, s.engine = .running → s.entry? name = some e → e.sole i h → h.expiryRaised = true → passGrants e →
      s.nextToken = 2 ^ 64 →
      exec (.leaseExpiry name h.token) s = .next halted)

/-- A set that passes every check is granted whole: consecutive tokens in position order, a hold for each position with the set's
lease and tag, new entries for the absent names, one response with the first token and the count (R10, R36, R39). -/
def Obligations.SetGrantsEveryName : Prop :=
  ∀ (q : ClientId) (s : State) (r : Record) (f : Decode.SetFields),
    Ready s q .tryAcquireSet r → Decode.setFields r = some f → s.windowAdmits q (f.positions.map Prod.fst) →
    s.grantsSet q f.positions → s.nextToken + f.positions.length ≤ 2 ^ 64 →
    let token := fun (p : Nat) => (BitVec.ofNat 64 (s.nextToken + p) : Token)
    let lease := s.leaseFor q f.lease
    let hold := fun (p : Nat) (m : Mode) => grantedHold q (s.nextToken + p) m lease (Decode.tag r)
    ∃ t, exec (.tryAcquireSet q) s = .next t ∧
      t = { ((s.replied q r .granted (.granted (token 0) lease 0 none f.positions.length)).told
              (f.positions.zipIdx.map (fun x =>
                { kind := .granted, name := x.1.1, client := q, token := token x.2, mode := x.1.2 : WatchEvent }))).mapAccount q
              (fun a => { a with
                holds := a.holds ++ f.positions.zipIdx.map (fun x => { name := x.1.1, token := token x.2 : HoldItem }) }) with
            table := t.table, nextToken := s.nextToken + f.positions.length,
            freeEntries := s.freeEntries - (f.positions.filter (fun p => (s.entry? p.1).isNone)).length } ∧
      (∀ p name m, f.positions[p]? = some (name, m) →
        (s.entry? name = none → t.entry? name = some (newEntry name (hold p m))) ∧
        (∀ e i, s.entry? name = some e → e.lowestFree i →
          t.entry? name = some { e with slots := e.slots.set i (some (hold p m)) })) ∧
      (∀ name, name ∉ f.positions.map Prod.fst → t.entry? name = s.entry? name)

/-- The refusals of a set in the order of R37: a repeated name is BAD_REQUEST and charged; a name held or waited on, the hold quota
and a full table refuse without a charge, and change nothing (R11, R15, R37). -/
def Obligations.SetRefusalsInOrder : Prop :=
  ∀ (q : ClientId) (s : State) (r : Record) (f : Decode.SetFields),
    Ready s q .tryAcquireSet r → Decode.setFields r = some f → s.windowAdmits q (f.positions.map Prod.fst) →
    let names := f.positions.map Prod.fst
    let free := fun (name : Name) => ∀ e, s.entry? name = some e → e.without q
    (¬ names.Nodup → exec (.tryAcquireSet q) s = .next ((s.replied q r .badRequest .empty).charged q 2)) ∧
    (∀ (p : Nat) (name : Name) (e : LockEntry), names.Nodup → names[p]? = some name →
      (∀ k n, k < p → names[k]? = some n → free n) → s.entry? name = some e →
      (∀ (i : SlotId) (h : Holder), e.slots[i] = some h → h.client = q →
        exec (.tryAcquireSet q) s = .next (s.replied q r .alreadyHeld .empty)) ∧
      (∀ w, w ∈ e.waiters → w.client = q → (∀ (i : SlotId) (h : Holder), e.slots[i] = some h → h.client ≠ q) →
        exec (.tryAcquireSet q) s = .next (s.replied q r .duplicateWait .empty))) ∧
    (names.Nodup → (∀ n ∈ names, free n) →
      (s.client q).config.holdQuota < (s.account q).holds.length + names.length →
      exec (.tryAcquireSet q) s = .next (s.replied q r .quotaHolds .empty)) ∧
    (names.Nodup → (∀ n ∈ names, free n) →
      (s.account q).holds.length + names.length ≤ (s.client q).config.holdQuota →
      s.freeEntries < (names.filter (fun n => (s.entry? n).isNone)).length →
      exec (.tryAcquireSet q) s = .next (s.replied q r .tableFull .empty))

/-- A set that meets a resident name not grantable at once is BUSY: the bitmap marks exactly those positions, the report is that of
the lowest of them with all its waiters ahead, and each marked entry's contention count rises by 1 (R13, R28, R38). -/
def Obligations.SetBusyMarksTheBlockers : Prop :=
  ∀ (q : ClientId) (s : State) (r : Record) (f : Decode.SetFields),
    Ready s q .tryAcquireSet r → Decode.setFields r = some f → s.windowAdmits q (f.positions.map Prod.fst) →
    (f.positions.map Prod.fst).Nodup → (∀ n ∈ f.positions.map Prod.fst, ∀ e, s.entry? n = some e → e.without q) →
    (s.account q).holds.length + f.positions.length ≤ (s.client q).config.holdQuota →
    (f.positions.filter (fun p => (s.entry? p.1).isNone)).length ≤ s.freeEntries →
    let marked := fun (k : Nat) (e : LockEntry) => ∃ name m, f.positions[k]? = some (name, m) ∧ s.entry? name = some e ∧
      ¬ e.admitsAtOnce m
    ∀ (k : Nat) (e : LockEntry) (i : SlotId) (h : Holder), marked k e → (∀ j d, j < k → ¬ marked j d) → e.firstHeld i h →
    ∃ t bitmap, exec (.tryAcquireSet q) s = .next t ∧
      t = { s.replied q r .busy (.busy (e.reportWith h e.waiters.length) bitmap) with table := t.table } ∧
      (∀ j, bitmap.testBit j = true ↔ ∃ d, marked j d) ∧
      (∀ j d name m, marked j d → f.positions[j]? = some (name, m) →
        t.entry? name = some { d with contention := d.hotter }) ∧
      (∀ name, (∀ j d m, marked j d → f.positions[j]? ≠ some (name, m)) → t.entry? name = s.entry? name)

/-! ## Letting go -/

/-- A RELEASE that lets nobody in takes the hold away and credits the client. On a lock on which nobody waits, the last holder's
leaves the lock absent, with FREED after RELEASED; any other leaves the other holders in their slots. With the client's own upgrade
pending on the hold, that upgrade ends with it, answered CANCELLED/BY_REQUEST after the RELEASE's OK (R5, R7, R9, R12, R66,
R72). -/
def Obligations.ReleaseWithNobodyWaiting : Prop :=
  ∀ (q : ClientId) (s : State) (r : Record) (f : Decode.HoldFields) (e : LockEntry) (i : SlotId) (h : Holder),
    Ready s q .release r → Decode.holdFields r = some f → s.windowAdmits q [f.name] →
    s.holdsAt q f.name f.token e i h →
    let gone : WatchEvent := { kind := .released, name := f.name, client := q, token := f.token, mode := h.mode }
    let freed : WatchEvent := { kind := .freed, name := f.name, client := 0, token := 0, mode := .shared }
    let after := fun (t : State) (evs : List WatchEvent) =>
      t = { ((s.replied q r .ok .empty).told evs).mapAccount q (fun a => a.letGo f.token) with
            table := t.table, freeEntries := t.freeEntries, clock := t.clock,
            standingQueue := s.standingQueue ++ [.credit q] }
    (e.waiters = [] → e.upgrade = none → (∀ j, j ≠ i → e.slots[j] = none) →
      ∃ t, exec (.release q) s = .next t ∧ after t [gone, freed] ∧ t.freeEntries = s.freeEntries + 1 ∧
        t.clock = (s.forgetEntry f.name).clock ∧ s.differsAt t f.name none) ∧
    (∀ j, e.waiters = [] → e.upgrade = none → j ≠ i → e.slots[j] ≠ none →
      ∃ t, exec (.release q) s = .next t ∧ after t [gone] ∧ t.freeEntries = s.freeEntries ∧ t.clock = s.clock ∧
        s.differsAt t f.name (some { e with slots := e.slots.set i none })) ∧
    (∀ j u, e.upgrade = some u → u.slot = i → u.client = q → s.stuckBehind e.waiters → j ≠ i → e.slots[j] ≠ none →
      ∃ t, exec (.release q) s = .next t ∧
        t = { (((s.replied q r .ok .empty).answeredTo q
                  { status := .cancelled .byRequest, tag := u.tag, index := u.index, body := .empty }).told [gone]).mapAccount q
                    (fun a => (a.letGo f.token).waited) with
              table := t.table, standingQueue := s.standingQueue ++ [.credit q] } ∧
        s.differsAt t f.name (some { e with slots := e.slots.set i none, upgrade := none }))

/-- A RELEASE by the sole holder hands the lock to the head waiter, when its client can take a grant and is below its hold quota: the
entry takes the waiter's mode, the waiter's record returns to the pool, RELEASED and then GRANTED are told, and the RELEASE's OK
comes before the waiter's GRANTED (R6, R9, R45, R48, R50, R66). -/
def Obligations.ReleaseGrantsTheHeadWaiter : Prop :=
  ∀ (q : ClientId) (s : State) (r : Record) (f : Decode.HoldFields) (e : LockEntry) (i : SlotId) (h : Holder)
    (x : Waiter) (rest : List Waiter),
    Ready s q .release r → Decode.holdFields r = some f → s.windowAdmits q [f.name] →
    s.holdsAt q f.name f.token e i h → e.sole i h → e.upgrade = none → e.waiters = x :: rest → x.client ≠ q →
    s.fit x.client → s.holdRoom x.client → s.nextToken < 2 ^ 64 →
    (∀ y, rest.head? = some y → s.fit y.client ∧ (x.mode = .exclusive ∨ y.mode = .exclusive)) →
    let token : Token := BitVec.ofNat 64 s.nextToken
    ∃ t, exec (.release q) s = .next t ∧
      t = { ((((s.replied q r .ok .empty).answeredTo x.client
                { status := .granted, tag := x.tag, index := x.index,
                  body := .granted token x.lease x.waited (some x.report) 1 }).told
              [{ kind := .released, name := f.name, client := q, token := f.token, mode := h.mode },
               { kind := .granted, name := f.name, client := x.client, token := token, mode := x.mode }]).mapAccount q
                (fun a => a.letGo f.token)).mapAccount x.client (fun a => (a.granted f.name token).waited) with
            table := t.table, nextToken := s.nextToken + 1, poolFree := s.poolFree + 1,
            standingQueue := s.standingQueue ++ [.credit q] } ∧
      s.differsAt t f.name (some { e with
        mode := x.mode, waiters := rest,
        slots := (Vector.replicate 8 none).set 0 (some (grantedHold x.client s.nextToken x.mode x.lease x.tag)) })

/-- A RELEASE that leaves the holder of the pending upgrade alone converts it: that hold becomes EXCLUSIVE with its token and lease,
its UPGRADE is answered GRANTED, no token is drawn and no watch event but RELEASED is told, whoever waits (R6, R46, R66, R72). -/
def Obligations.ReleaseConvertsTheUpgrade : Prop :=
  ∀ (q : ClientId) (s : State) (r : Record) (f : Decode.HoldFields) (e : LockEntry) (i : SlotId) (h k : Holder)
    (u : PendingUpgrade),
    Ready s q .release r → Decode.holdFields r = some f → s.windowAdmits q [f.name] →
    s.holdsAt q f.name f.token e i h → e.upgrade = some u → u.slot ≠ i → e.slots[u.slot] = some k → u.client ≠ q →
    s.fit u.client → (∀ j, j ≠ i → j ≠ u.slot → e.slots[j] = none) →
    ∃ t, exec (.release q) s = .next t ∧
      t = { ((((s.replied q r .ok .empty).answeredTo u.client
                { status := .granted, tag := u.tag, index := u.index,
                  body := .granted k.token k.lease u.waited (some u.report) 1 }).told
              [{ kind := .released, name := f.name, client := q, token := f.token, mode := h.mode }]).mapAccount q
                (fun a => a.letGo f.token)).mapAccount u.client Account.waited with
            table := t.table, standingQueue := s.standingQueue ++ [.credit q] } ∧
      s.differsAt t f.name (some { e with
        mode := .exclusive, upgrade := none,
        slots := (e.slots.set i none).set u.slot (some { k with mode := .exclusive }) })

/-- A RELEASE, RENEW, UPGRADE or DOWNGRADE whose hold is not found changes nothing at the lock: STALE for a token on the client's
expired-token list, UNKNOWN_TOKEN with a charge of 4 for any other (R63, R65). -/
def Obligations.LostTokenIsStaleOrUnknown : Prop :=
  ∀ (op : Decode.Opcode) (q : ClientId) (s : State) (r : Record),
    op = .release ∨ op = .renew ∨ op = .upgrade ∨ op = .downgrade →
    Ready s q op r → inRange r op = true → s.windowAdmits q (windowNames r op) →
    let name : Name := Decode.field r 8 4
    let token : Token := Decode.field r 12 8
    let counted := fun (t : State) => if op = .upgrade then t.mapAccount q Account.asked else t
    s.holdsNot q name token →
    (token ∈ (s.account q).expired → exec (commandOf op q) s = .next (counted (s.replied q r .stale .empty))) ∧
    (token ∉ (s.account q).expired →
      exec (commandOf op q) s = .next (counted ((s.replied q r .unknownToken .empty).charged q 4)))

/-! ## Holding -/

/-- A RENEW of a found hold sets its lease remaining to the new effective lease, withdraws an expiry raised for it, reports the lease,
and changes nothing else. A DOWNGRADE of a SHARED hold is WRONG_MODE and changes nothing; of an EXCLUSIVE hold it makes hold and
entry SHARED, with the token and lease kept, and answers OK. Where nobody waiting can join, that is all; otherwise the pass then
grants the run of SHARED waiters at the head, in their order, into the lowest free slots, with consecutive tokens, one GRANTED each
in the order of the tokens, and stops at an EXCLUSIVE waiter or with every slot full (R6, R47, R48, R50, R51, R67, R68, R83). -/
def Obligations.RenewAndDowngrade : Prop :=
  (∀ (q : ClientId) (s : State) (r : Record) (f : Decode.RenewFields) (e : LockEntry) (i : SlotId) (h : Holder),
    Ready s q .renew r → Decode.renewFields r = some f → s.windowAdmits q [f.name] →
    s.holdsAt q f.name f.token e i h →
    ∃ t, exec (.renew q) s = .next t ∧
      t = { s.replied q r .ok (.renewed (s.leaseFor q f.lease)) with table := t.table } ∧
      s.differsAt t f.name (some { e with
        slots := e.slots.set i (some { h with lease := s.leaseFor q f.lease, expiryRaised := false }) })) ∧
  (∀ (q : ClientId) (s : State) (r : Record) (f : Decode.HoldFields) (e : LockEntry) (i : SlotId) (h : Holder),
    Ready s q .downgrade r → Decode.holdFields r = some f → s.windowAdmits q [f.name] →
    s.holdsAt q f.name f.token e i h →
    (h.mode = .shared → exec (.downgrade q) s = .next (s.replied q r .wrongMode .empty)) ∧
    (h.mode = .exclusive → e.upgrade = none → s.stuckBehind e.waiters →
      ∃ t, exec (.downgrade q) s = .next t ∧ t = { s.replied q r .ok .empty with table := t.table } ∧
        s.differsAt t f.name (some { e with
          mode := .shared, slots := e.slots.set i (some { h with mode := .shared }) })) ∧
    (∀ run rest, h.mode = .exclusive → e.Lawful → e.upgrade = none → e.waiters = run ++ rest → run ≠ [] → run.length ≤ 7 →
      (∀ x ∈ run, x.mode = .shared ∧ s.fit x.client ∧ s.holdRoom x.client) →
      (∀ y, rest.head? = some y → s.fit y.client ∧ (y.mode = .exclusive ∨ run.length = 7)) →
      s.nextToken + run.length ≤ 2 ^ 64 →
      let token := fun (k : Nat) => (BitVec.ofNat 64 (s.nextToken + k) : Token)
      let slot := fun (k : Nat) => (Fin.ofNat 8 (if k < i.val then k else k + 1) : SlotId)
      ∃ t, exec (.downgrade q) s = .next t ∧
        t = { (run.zipIdx.foldl (fun u x => (u.answeredTo x.1.client
                  { status := .granted, tag := x.1.tag, index := x.1.index,
                    body := .granted (token x.2) x.1.lease x.1.waited (some x.1.report) 1 }).mapAccount x.1.client
                      (fun a => (a.granted f.name (token x.2)).waited)) (s.replied q r .ok .empty)).told
                (run.zipIdx.map (fun x =>
                  { kind := .granted, name := f.name, client := x.1.client, token := token x.2, mode := .shared : WatchEvent })) with
              table := t.table, nextToken := s.nextToken + run.length, poolFree := s.poolFree + run.length } ∧
        s.differsAt t f.name (some { e with
          mode := .shared, waiters := rest,
          slots := run.zipIdx.foldl (fun v x => v.set (slot x.2)
            (some (grantedHold x.1.client (s.nextToken + x.2) .shared x.1.lease x.1.tag)))
              (e.slots.set i (some { h with mode := .shared })) })))

/-- An UPGRADE of a found SHARED hold: with no other holder the hold is EXCLUSIVE at once, with its token; with others it becomes the
entry's pending upgrade, answered later. Of an EXCLUSIVE hold, at an entry with a pending upgrade, with a wait of 0, or at the wait
quota it is refused, in the order of R69 (R13, R28, R53, R69, R70, R71). -/
def Obligations.UpgradeInTheOrderOfItsChecks : Prop :=
  ∀ (q : ClientId) (s : State) (r : Record) (f : Decode.UpgradeFields) (e : LockEntry) (i k : SlotId) (h first : Holder),
    Ready s q .upgrade r → Decode.upgradeFields r = some f → s.windowAdmits q [f.name] →
    s.holdsAt q f.name f.token e i h → e.firstHeld k first →
    let refused := fun (status : Status) (body : Body) => (s.replied q r status body).mapAccount q Account.asked
    let refusedHotter := fun (status : Status) (body : Body) => ∃ t, exec (.upgrade q) s = .next t ∧
      t = { refused status body with table := t.table } ∧ s.differsAt t f.name (some { e with contention := e.hotter })
    (h.mode = .exclusive → exec (.upgrade q) s = .next (refused .wrongMode .empty)) ∧
    (h.mode = .shared → e.holds = 1 → ∃ t, exec (.upgrade q) s = .next t ∧
      t = { refused .granted (.granted h.token h.lease 0 none 1) with table := t.table } ∧
      s.differsAt t f.name (some { e with
        mode := .exclusive, slots := e.slots.set i (some { h with mode := .exclusive }) })) ∧
    (h.mode = .shared → e.holds ≠ 1 → e.upgrade ≠ none →
      exec (.upgrade q) s = .next (refused .upgradeConflict .empty)) ∧
    (h.mode = .shared → e.holds ≠ 1 → e.upgrade = none →
      (s.waitFor q f.wait = some 0 → refusedHotter .busy (.busy (e.reportWith first 0) 0)) ∧
      (s.waitFor q f.wait ≠ some 0 → ¬ s.waitRoom q → refusedHotter .quotaWaits .empty) ∧
      (s.waitFor q f.wait ≠ some 0 → s.waitRoom q → ∃ t, exec (.upgrade q) s = .next t ∧
        t = { (s.recordTaken q).mapAccount q (fun a => a.asked.waiting) with table := t.table } ∧
        s.differsAt t f.name (some { e with
          contention := e.hotter,
          upgrade := some { slot := i, client := q, tag := Decode.tag r, order := (s.account q).requests + 1,
                            wait := s.waitFor q f.wait, waited := 0, report := e.reportWith first 0,
                            index := (s.ring q).sqConsumer, expiryRaised := false } })))

/-- A FORCE_RELEASE of a token that no slot of the named lock carries is NOT_FOUND and changes nothing. Of a hold that nobody waits
behind it revokes the hold of whatever client: its token heads that client's expired-token list, REVOKED is told, and FREED after it
when the hold was the last, a REVOKED notice goes to the client, and last the OK. A pending upgrade of that hold ends with it,
answered CANCELLED/FORCED before the OK (R7, R12, R64, R72, R75, R138). What becomes of the notice to a client whose ring swap waits
with no write in flight is the model's choice (log entry 36). -/
def Obligations.ForceReleaseRevokes : Prop :=
  ∀ (s : State) (r : Record) (f : Decode.HoldFields),
    Ready s 0 .forceRelease r → Decode.holdFields r = some f →
    ((∀ (e : LockEntry) (i : SlotId) (h : Holder), s.entry? f.name = some e → e.slots[i] = some h → h.token ≠ f.token) →
      exec (.forceRelease 0) s = .next (s.replied 0 r .notFound .empty)) ∧
    (∀ (e : LockEntry) (i : SlotId) (h : Holder), s.entry? f.name = some e → e.slots[i] = some h → h.token = f.token →
      (∀ (j : SlotId) (k : Holder), e.slots[j] = some k → k.token = f.token → j = i) →
      let noticed := (s.recordTaken 0).noticedTo h.client (.revoked f.name f.token h.tag)
      let gone : WatchEvent := { kind := .revoked, name := f.name, client := h.client, token := f.token, mode := h.mode }
      let freed : WatchEvent := { kind := .freed, name := f.name, client := 0, token := 0, mode := .shared }
      (e.waiters = [] → e.upgrade = none → (∀ j, j ≠ i → e.slots[j] = none) →
        ∃ t, exec (.forceRelease 0) s = .next t ∧
          t = { ((noticed.alsoReplied s 0 r .ok .empty).told [gone, freed]).mapAccount h.client (fun a => a.lost f.token) with
                table := t.table, freeEntries := s.freeEntries + 1, clock := (s.forgetEntry f.name).clock } ∧
          s.differsAt t f.name none) ∧
      (∀ j, e.waiters = [] → e.upgrade = none → j ≠ i → e.slots[j] ≠ none →
        ∃ t, exec (.forceRelease 0) s = .next t ∧
          t = { ((noticed.alsoReplied s 0 r .ok .empty).told [gone]).mapAccount h.client (fun a => a.lost f.token) with
                table := t.table } ∧
          s.differsAt t f.name (some { e with slots := e.slots.set i none })) ∧
      (∀ j u, e.upgrade = some u → u.slot = i → u.client = h.client → s.stuckBehind e.waiters → j ≠ i → e.slots[j] ≠ none →
        ∃ t, exec (.forceRelease 0) s = .next t ∧
          t = { (((noticed.answeredTo h.client
                    { status := .cancelled .forced, tag := u.tag, index := u.index, body := .empty }).alsoReplied
                      s 0 r .ok .empty).told [gone]).mapAccount h.client (fun a => (a.lost f.token).waited) with
                table := t.table } ∧
          s.differsAt t f.name (some { e with slots := e.slots.set i none, upgrade := none })))

/-- QUERY_LOCK and QUERY_CLIENT change nothing but their own answer, which reports the entry or the client as it stands: NOT_FOUND
for an absent name, head fields 0 when nobody waits (R18, R130, R139). -/
def Obligations.QueriesReportWithoutChange : Prop :=
  ∀ (s : State) (r : Record),
    (∀ name, Ready s 0 .queryLock r → Decode.queryName r = some name →
      (s.entry? name = none → exec (.queryLock 0) s = .next (s.replied 0 r .notFound .empty)) ∧
      (∀ (e : LockEntry) (i : SlotId) (h : Holder), s.entry? name = some e → e.firstHeld i h →
        exec (.queryLock 0) s = .next (s.replied 0 r .ok (.lock
          { mode := e.mode, holders := e.holds, firstHolder := h.client, waiters := e.waiters.length,
            headClient := match e.waiters with | [] => 0 | w :: _ => w.client,
            headMode := match e.waiters with | [] => .shared | w :: _ => w.mode,
            upgradePending := e.upgrade.isSome, contention := e.contention })))) ∧
    (∀ c, Ready s 0 .queryClient r → Decode.clientField r = some c →
      exec (.queryClient 0) s = .next (s.replied 0 r .ok (.client
        { state := (s.client c).state, score := (s.standing c).score, grade := (s.standing c).grade,
          teardown := (s.client c).teardown.isSome, holds := (s.account c).holds.length, waits := (s.account c).waits,
          watches := (s.watches.filter (fun w => w.owner == c)).length, reservations := (s.ring c).reserved,
          lost := (s.ring c).lost, recovery := s.recovery c })))

/-! ## The grant pass, cancelled and expired waits -/

/-- A grant pass works from the head only: the list it leaves is the end of the list it found. With the pending upgrade left standing
it has changed nothing; with none, it stops at an empty list, or at a head whose client can take a grant and which is not
grantable (R46, R47, R48, R51). What it does at its first item, before it goes on with the rest: a pending upgrade or a head waiter
whose client can take no grant ends CANCELLED/ISOLATION, the waiter's record back in the pool (R47, R74); a grantable head at its
hold quota ends QUOTA_HOLDS (R49); any other grantable head is granted the lowest free slot and the next token, and an entry without
a holder takes its mode (R5, R6, R48, R50). -/
def Obligations.GrantPassStopsAtABlockedHead : Prop :=
  ∀ w : AtEntry,
    let v := w.grantPass
    let grantable := fun (x : Waiter) =>
      w.entry.holds = 0 ∨ (x.mode = .shared ∧ w.entry.mode = .shared ∧ ∃ i, w.entry.lowestFree i)
    let ended := fun (c : ClientId) (tag : Tag) (index : Nat) (status : Status) =>
      (w.state.answeredTo c { status := status, tag := tag, index := index, body := .empty }).mapAccount c Account.waited
    (∃ done, w.entry.waiters = done ++ v.entry.waiters) ∧
    (v.entry.upgrade ≠ none → v = w) ∧
    (v.entry.upgrade = none → w.entry.upgrade = none → ∀ x, v.entry.waiters.head? = some x →
      v.state.fit x.client ∧ v.entry.holds ≠ 0 ∧
        ¬ (x.mode = .shared ∧ v.entry.mode = .shared ∧ ∃ i, v.entry.lowestFree i)) ∧
    (∀ u, w.entry.upgrade = some u → ¬ w.state.fit u.client →
      v = AtEntry.grantPass { entry := { w.entry with upgrade := none },
                              state := ended u.client u.tag u.index (.cancelled .isolation) }) ∧
    (∀ x rest, w.entry.upgrade = none → w.entry.waiters = x :: rest → ¬ w.state.fit x.client →
      v = AtEntry.grantPass { entry := { w.entry with waiters := rest },
                              state := { ended x.client x.tag x.index (.cancelled .isolation) with
                                         poolFree := w.state.poolFree + 1 } }) ∧
    (∀ x rest, w.entry.upgrade = none → w.entry.waiters = x :: rest → w.state.fit x.client → grantable x →
      ¬ w.state.holdRoom x.client →
      v = AtEntry.grantPass { entry := { w.entry with waiters := rest },
                              state := { ended x.client x.tag x.index .quotaHolds with poolFree := w.state.poolFree + 1 } }) ∧
    (∀ x rest i bs b, w.entry.upgrade = none → w.entry.waiters = x :: rest → w.state.fit x.client → grantable x →
      w.state.holdRoom x.client → w.entry.lowestFree i → w.state.watchEvents = bs ++ [b] →
      let token : Token := BitVec.ofNat 64 w.state.nextToken
      v = AtEntry.grantPass
        { entry := { w.entry with
            waiters := rest, mode := if w.entry.holds = 0 then x.mode else w.entry.mode,
            slots := w.entry.slots.set i (some (grantedHold x.client w.state.nextToken x.mode x.lease x.tag)) },
          state := { (w.state.answeredTo x.client
                { status := .granted, tag := x.tag, index := x.index,
                  body := .granted token x.lease x.waited (some x.report) 1 }).mapAccount x.client
                    (fun a => (a.granted w.entry.name token).waited) with
              nextToken := w.state.nextToken + 1, poolFree := w.state.poolFree + 1,
              watchEvents := bs ++ [b ++ [{ kind := .granted, name := w.entry.name, client := x.client, token := token,
                                            mode := x.mode }]] } })

/-- A CANCEL finds the earliest taken of the client's waits with its target tag. With none it is NOT_FOUND. A waiter that is not at
the head, or stands behind an EXCLUSIVE holder, leaves the list; a pending upgrade ends and its holder keeps the SHARED hold; the
target is answered CANCELLED/BY_REQUEST, and then the CANCEL OK (R42, R44, R53, R54). -/
def Obligations.CancelEndsTheEarliestWait : Prop :=
  ∀ (q : ClientId) (s : State) (r : Record),
    Ready s q .cancel r → TableLaw s →
    let target : Tag := Decode.field r 8 4
    let earliest := fun (order : BitVec 64) =>
      (∀ e ∈ s.table, ∀ y ∈ e.waiters, y.client = q → y.tag = target → order ≤ y.order) ∧
      (∀ e ∈ s.table, ∀ v, e.upgrade = some v → v.client = q → v.tag = target → order ≤ v.order)
    let alone := fun (order : BitVec 64) =>
      ∀ e ∈ s.table, ∀ d ∈ s.table, (∀ x ∈ e.waiters, ∀ y ∈ d.waiters, x.client = q → y.client = q →
          x.order = order → y.order = order → x = y ∧ e = d) ∧
        (∀ x ∈ e.waiters, ∀ v, d.upgrade = some v → x.client = q → v.client = q → ¬ (x.order = order ∧ v.order = order)) ∧
        (∀ u v, e.upgrade = some u → d.upgrade = some v → u.client = q → v.client = q → u.order = order →
          v.order = order → e = d)
    (((∀ e ∈ s.table, ∀ y ∈ e.waiters, y.client = q → y.tag ≠ target) ∧
      (∀ e ∈ s.table, ∀ v, e.upgrade = some v → v.client = q → v.tag ≠ target)) →
      exec (.cancel q) s = .next (s.replied q r .notFound .empty)) ∧
    (∀ e ∈ s.table, ∀ x ∈ e.waiters, x.client = q → x.tag = target → earliest x.order → alone x.order →
      (e.waiters.head? ≠ some x ∨ (e.mode = .exclusive ∧ ∀ y ∈ e.waiters, s.fit y.client)) →
      ∃ t, exec (.cancel q) s = .next t ∧
        t = { (((s.recordTaken q).answeredTo q
                  { status := .cancelled .byRequest, tag := target, index := x.index, body := .empty }).alsoReplied
                    s q r .ok .empty).mapAccount q Account.waited with
              table := t.table, poolFree := s.poolFree + 1 } ∧
        s.differsAt t e.name (some { e with waiters := e.waiters.filter (fun y => y.client != q) })) ∧
    (∀ e ∈ s.table, ∀ u, e.upgrade = some u → u.client = q → u.tag = target → earliest u.order → alone u.order →
      s.stuckBehind e.waiters →
      ∃ t, exec (.cancel q) s = .next t ∧
        t = { (((s.recordTaken q).answeredTo q
                  { status := .cancelled .byRequest, tag := target, index := u.index, body := .empty }).alsoReplied
                    s q r .ok .empty).mapAccount q Account.waited with table := t.table } ∧
        s.differsAt t e.name (some { e with upgrade := none }))

/-- An expiry that was raised ends its waiter or its pending upgrade: TIMEOUT with the full count of waited ticks and the report
that was captured, or for a client that can take no grant the answer that R47 gives; the upgrade's holder keeps its SHARED hold.
Here of a waiter behind others or behind an EXCLUSIVE holder, and of an upgrade after which the pass finds nobody to let in
(R47, R56, R57, R73, R83). -/
def Obligations.ExpiredWaitsAnswerTimeout : Prop :=
  (∀ (s : State) (name : Name) (c : ClientId) (e : LockEntry) (x : Waiter),
    s.engine = .running → s.nextToken ≤ 2 ^ 64 → s.entry? name = some e → e.Lawful → x ∈ e.waiters → x.client = c →
    x.expiryRaised = true →
    (e.waiters.head? ≠ some x ∨ (e.mode = .exclusive ∧ ∀ y ∈ e.waiters, y ≠ x → s.fit y.client)) →
    let waited := if x.waited < 65535 then x.waited + 1 else x.waited
    let answer := fun (a : Response) => ∃ t, exec (.waitExpiry name c x.tag) s = .next t ∧
      t = { (s.quiet.answeredTo c a).mapAccount c Account.waited with table := t.table, poolFree := s.poolFree + 1 } ∧
      s.differsAt t name (some { e with waiters := e.waiters.filter (fun y => y.client != c) })
    (s.fit c → answer { status := .timeout, tag := x.tag, index := x.index, body := .timeout waited x.report }) ∧
    (¬ s.fit c → answer { status := .cancelled .isolation, tag := x.tag, index := x.index, body := .empty })) ∧
  (∀ (s : State) (name : Name) (e : LockEntry) (u : PendingUpgrade),
    s.engine = .running → s.nextToken ≤ 2 ^ 64 → s.entry? name = some e → e.Lawful → e.upgrade = some u →
    u.expiryRaised = true → s.stuckBehind e.waiters →
    let waited := if u.waited < 65535 then u.waited + 1 else u.waited
    let answer := fun (a : Response) => ∃ t, exec (.upgradeWaitExpiry name u.tag) s = .next t ∧
      t = { (s.quiet.answeredTo u.client a).mapAccount u.client Account.waited with table := t.table } ∧
      s.differsAt t name (some { e with upgrade := none })
    (s.fit u.client → answer { status := .timeout, tag := u.tag, index := u.index, body := .timeout waited u.report }) ∧
    (¬ s.fit u.client → answer { status := .cancelled .isolation, tag := u.tag, index := u.index, body := .empty }))

/-! ## The Lease Clock -/

/-- A tick ends the interval: the elapsed count is 0 and the period last set is in force. It starts a sweep of every resident entry
and every RECOVERING client; with a sweep in progress or owed it is counted, up to 255, as owed. An owed sweep starts when no sweep
is in progress. SET_TIMEBASE sets the period of the next interval (R78, R80, R81). The model's choices here: TICK may come at any
elapsed count (log entry 4), and a step with no command waiting is one unit of 10 µs, which is a tick at the period (log entry
3). -/
def Obligations.TicksSweepsAndPeriods : Prop :=
  (∀ s : State, s.pending = [] →
    (s.engine = .running → s.clock.elapsed + 1 < s.clock.period →
      step s = .next { s with clock := { s.clock with elapsed := s.clock.elapsed + 1 } }) ∧
    (s.engine = .running → s.clock.period ≤ s.clock.elapsed + 1 → step s = exec .tick s) ∧
    (s.engine ≠ .running → step s = .next s)) ∧
  (∀ s : State, s.engine = .running →
    let sweep : Sweep :=
      { entries := s.table.map (fun e => e.name),
        clients := Config.allClients.filter (fun c => (s.client c).state == .recovering) }
    let ticked : Clock := { s.clock with elapsed := 0, period := s.clock.nextPeriod }
    (s.sweeping = false → s.clock.owed = [] →
      exec .tick s = .next { s with clock := { ticked with sweep := sweep }, linkOut := [] }) ∧
    (s.sweeping = true ∨ s.clock.owed ≠ [] → s.clock.owed.length < 255 →
      exec .tick s = .next { s with clock := { ticked with owed := s.clock.owed ++ [sweep] }, linkOut := [] }) ∧
    (255 ≤ s.clock.owed.length → exec .tick s = .next { s with clock := ticked, linkOut := [] }) ∧
    (∀ first rest, s.clock.owed = first :: rest → s.sweeping = false →
      exec .owedTickSweep s = .next { s with clock := { s.clock with sweep := first, owed := rest }, linkOut := [] }) ∧
    (∀ r p, Ready s 0 .setTimebase r → Decode.periodField r = some p →
      exec (.setTimebase 0) s = .next { s.replied 0 r .ok .empty with clock := { s.clock with nextPeriod := p } }))

/-- The visit of a tick counts every countdown at the entry once: above 1 it falls by 1, at 1 its expiry is raised and the count
stays, an indefinite wait counts waited ticks only; nothing else at the entry changes, and nothing is handed on (R56, R82). -/
def Obligations.VisitCountsEveryCountdown : Prop :=
  ∀ (s : State) (name : Name) (e : LockEntry),
    s.engine = .running → s.entry? name = some e → name ∈ s.clock.sweep.entries →
    let tick := fun (n : Nat) => if n < 65535 then n + 1 else n
    ∃ t d, exec (.tickVisitEntry name) s = .next t ∧
      t = { s with table := t.table, linkOut := [], clock := { s.clock with
              sweep := { s.clock.sweep with entries := s.clock.sweep.entries.filter (· != name) } } } ∧
      s.differsAt t name (some d) ∧ d = { e with slots := d.slots, waiters := d.waiters, upgrade := d.upgrade } ∧
      (∀ i : SlotId, d.slots[i] = match e.slots[i] with
        | none => none
        | some h => some (if 1 < h.lease then { h with lease := h.lease - 1 } else { h with expiryRaised := true })) ∧
      d.waiters = e.waiters.map (fun x => match x.wait with
        | none => { x with waited := tick x.waited }
        | some n => if 1 < n then { x with wait := some (n - 1), waited := tick x.waited }
                    else { x with expiryRaised := true }) ∧
      d.upgrade = e.upgrade.map (fun u => match u.wait with
        | none => { u with waited := tick u.waited }
        | some n => if 1 < n then { u with wait := some (n - 1), waited := tick u.waited }
                    else { u with expiryRaised := true })

/-- A lease expiry that was raised takes the hold away: the token heads the expired-token list, EXPIRED is told, 16 is charged, and
the notice goes to the client by its state. On a lock on which nobody waits, the last holder's lock is freed. With the client's own
upgrade pending on the hold, that upgrade ends with it, answered LEASE_LOST, or CANCELLED/ISOLATION for a client that can take no
grant (R7, R12, R64, R72, R84, R85). What becomes of the notice to a client whose ring swap waits with no write in flight is the
model's choice (log entry 36). -/
def Obligations.LeaseExpiryTakesTheHold : Prop :=
  ∀ (s : State) (name : Name) (e : LockEntry) (i : SlotId) (h : Holder),
    s.engine = .running → s.nextToken ≤ 2 ^ 64 → s.entry? name = some e → e.slots[i] = some h → h.expiryRaised = true →
    (∀ (j : SlotId) (k : Holder), e.slots[j] = some k → k.token = h.token → j = i) →
    let gone : WatchEvent := { kind := .expired, name := name, client := h.client, token := h.token, mode := h.mode }
    let freed : WatchEvent := { kind := .freed, name := name, client := 0, token := 0, mode := .shared }
    let noticed := s.quiet.noticedTo h.client (.expired name h.token h.tag)
    let after := fun (t : State) (evs : List WatchEvent) =>
      t = { ((noticed.told evs).mapAccount h.client (fun a => a.lost h.token)).charged h.client 16 with
            table := t.table, freeEntries := t.freeEntries, clock := t.clock }
    (e.waiters = [] → e.upgrade = none → (∀ j, j ≠ i → e.slots[j] = none) →
      ∃ t, exec (.leaseExpiry name h.token) s = .next t ∧ after t [gone, freed] ∧ t.freeEntries = s.freeEntries + 1 ∧
        t.clock = (s.forgetEntry name).clock ∧ s.differsAt t name none) ∧
    (∀ j, e.waiters = [] → e.upgrade = none → j ≠ i → e.slots[j] ≠ none →
      ∃ t, exec (.leaseExpiry name h.token) s = .next t ∧ after t [gone] ∧ t.freeEntries = s.freeEntries ∧
        t.clock = s.clock ∧ s.differsAt t name (some { e with slots := e.slots.set i none })) ∧
    (∀ j u, e.upgrade = some u → u.slot = i → u.client = h.client → s.stuckBehind e.waiters → j ≠ i → e.slots[j] ≠ none →
      let answer := fun (status : Status) => ∃ t, exec (.leaseExpiry name h.token) s = .next t ∧
        t = { (((noticed.answeredTo h.client
                  { status := status, tag := u.tag, index := u.index, body := .empty }).told [gone]).mapAccount h.client
                    (fun a => (a.lost h.token).waited)).charged h.client 16 with table := t.table } ∧
        s.differsAt t name (some { e with slots := e.slots.set i none, upgrade := none })
      (s.fit h.client → answer .leaseLost) ∧ (¬ s.fit h.client → answer (.cancelled .isolation)))

/-- A tick's visit at a RECOVERING client lowers its recovery remaining by 1; the visit that finds 1 completes the recovery: score 0
and GOOD, ACTIVE, a STANDING notice to the client, and a CLIENT_STANDING notice to the control queue (R86, R110). The model's
choices here: a completing visit is taken as RECOVERY_VISIT or as RECOVERY_COMPLETE (log entry 19), a charge or credit handed on
and not yet taken stays in transit (log entry 35), and a client whose ring swap waits drops its notice even with no write in flight
(log entry 36). -/
def Obligations.RecoveryCountsDownAndCompletes : Prop :=
  ∀ (s : State) (c : ClientId),
    s.engine = .running → (s.client c).state = .recovering → c ∈ s.clock.sweep.clients →
    (1 < s.recovery c →
      exec (.recoveryVisit c) s = .next { s with linkOut := [], clock := { s.clock with
        recovery := s.clock.recovery.set c (s.recovery c - 1),
        sweep := { s.clock.sweep with clients := s.clock.sweep.clients.filter (· != c) } } }) ∧
    (s.recovery c = 1 →
      let returned : State := { s with
        linkOut := [], standings := s.standings.set c { score := 0, grade := .good },
        clients := s.clients.set c { s.client c with state := .active },
        clock := ({ s with clock := { s.clock with recovery := s.clock.recovery.set c 0 } }.forgetClient c).clock }
      exec (.recoveryVisit c) s = exec (.recoveryComplete c) s ∧
      exec (.recoveryComplete c) s = .next ((returned.noticedTo c (.standing .restricted .good 0)).noticedTo 0
        (.clientStanding c .returnedToActive 0)))

/-! ## Watches -/

/-- A WATCH is placed at the end of the placement order and answered OK, unless the client already owns one with its tag, owns 8,
or the table holds 64: then it is refused, and nothing changes (R88, R91). -/
def Obligations.WatchIsPlacedOrRefused : Prop :=
  ∀ (q : ClientId) (s : State) (r : Record) (f : Decode.WatchFields),
    Ready s q .watch r → Decode.watchFields r = some f →
    let tag := Decode.tag r
    let owned := s.watches.filter (fun w => w.owner == q)
    ((∃ w ∈ owned, w.tag = tag) → exec (.watch q) s = .next (s.replied q r .duplicateWait .empty)) ∧
    ((∀ w ∈ owned, w.tag ≠ tag) → 8 ≤ owned.length → exec (.watch q) s = .next (s.replied q r .quotaWatches .empty)) ∧
    ((∀ w ∈ owned, w.tag ≠ tag) → owned.length < 8 → 64 ≤ s.watches.length →
      exec (.watch q) s = .next (s.replied q r .tableFull .empty)) ∧
    ((∀ w ∈ owned, w.tag ≠ tag) → owned.length < 8 → s.watches.length < 64 →
      exec (.watch q) s = .next { s.replied q r .ok .empty with
        watches := s.watches ++ [{ owner := q, tag := tag, code := f.code, mask := f.mask, events := f.events }] })

/-- An UNWATCH removes the requester's watch with the target tag, leaving the others in their order, and is answered OK; with no such
watch it is NOT_FOUND and the table is unchanged. Nothing else changes: no charge, no notice, no watch event (R92). -/
def Obligations.UnwatchRemovesTheRequestersWatch : Prop :=
  ∀ (q : ClientId) (s : State) (r : Record),
    Ready s q .unwatch r →
    let target : Tag := Decode.field r 8 4
    ((∃ w ∈ s.watches, w.owner = q ∧ w.tag = target) →
      ∃ t, exec (.unwatch q) s = .next t ∧ t = { s.replied q r .ok .empty with watches := t.watches } ∧
        t.watches.Sublist s.watches ∧ ∀ w, w ∈ t.watches ↔ w ∈ s.watches ∧ ¬ (w.owner = q ∧ w.tag = target)) ∧
    ((∀ w ∈ s.watches, ¬ (w.owner = q ∧ w.tag = target)) →
      exec (.unwatch q) s = .next (s.replied q r .notFound .empty))

/-- The Watch Filter takes the oldest watch event of a lock and hands a notice to the owner of each matching watch, in placement
order: a watch matches when its set has the kind, its mask and code cover the name, and the name lies in its owner's window
(R89, R93, R94). That an owner whose ring swap waits drops its notice even with no write in flight is the model's choice (log
entry 36). -/
def Obligations.WatchEventMatchesInPlacementOrder : Prop :=
  ∀ (s : State) (before after : List (List WatchEvent)) (ev : WatchEvent) (evs : List WatchEvent),
    s.engine = .running → s.watchEvents = before ++ (ev :: evs) :: after →
    (∀ b ∈ before, b ≠ [] ∧ ∀ x ∈ b, x.name ≠ ev.name) →
    let bit := match ev.kind with | .granted => 0 | .released => 1 | .expired => 2 | .revoked => 3 | .freed => 4
    let hit := fun (w : Watch) =>
      w.events.getLsbD bit = true ∧ ev.name &&& w.mask = w.code &&& w.mask ∧
        ev.name &&& (s.client w.owner).config.windowMask =
          (s.client w.owner).config.windowCode &&& (s.client w.owner).config.windowMask
    exec (.watchEventMatch ev.name) s = .next
      ((s.watches.filter (fun w => decide (hit w))).foldl
        (fun t w => t.noticedTo w.owner (.watch w.tag ev.kind ev.name ev.client ev.token ev.mode))
        { s with linkOut := [], watchEvents := before ++ (if evs = [] then after else evs :: after) })

/-! ## Standing -/

/-- A charge handed on is taken: the score rises, saturating at 255, and the grade follows with its notices; a score that reaches 255
from below isolates an ACTIVE or DISABLED client that is not under teardown. A credit lowers a score of 1 to 254 by 1, and leaves 0
and 255. The grade is GOOD below the warning threshold, WARNED from it to below the restricted threshold, RESTRICTED from there.
Client 0's score stays (R99, R100, R101, R102, R103, R106, R107). That a client whose ring swap waits drops its notice even with no
write in flight is the model's choice (log entry 36). -/
def Obligations.ChargesAndCredits : Prop :=
  ∀ (s : State) (c : ClientId), s.engine = .running →
    let old := (s.standing c).score
    let taken := fun (i : StandingItem) => { s with linkOut := [], standingQueue := s.standingQueue.erase i }
    let graded := fun (t : State) (new : Nat) => (t.standing c).score = new ∧
      (new < s.limits.warning → (t.standing c).grade = .good) ∧
      (s.limits.warning ≤ new → new < s.limits.restricted → (t.standing c).grade = .warned) ∧
      (s.limits.warning ≤ new → s.limits.restricted ≤ new → (t.standing c).grade = .restricted)
    (∀ n, .charge c n ∈ s.standingQueue → c = 0 →
      exec (.standingCharge c n) s = .next (taken (.charge c n))) ∧
    (∀ n, .charge c n ∈ s.standingQueue → c ≠ 0 →
      let new := min 255 (old + n)
      let t := (taken (.charge c n)).rescored c new
      graded t new ∧
      (old < 255 ∧ new = 255 ∧ ((s.client c).state = .active ∨ (s.client c).state = .disabled) ∧
          (s.client c).teardown = none →
        exec (.standingCharge c n) s = .next { t with clients := s.clients.set c { s.client c with
          state := .isolated, teardown := some { cause := .isolation, waiting := none } } }) ∧
      (¬ (old < 255 ∧ new = 255 ∧ ((s.client c).state = .active ∨ (s.client c).state = .disabled) ∧
          (s.client c).teardown = none) →
        exec (.standingCharge c n) s = .next t)) ∧
    (.credit c ∈ s.standingQueue → (c = 0 ∨ old = 0 ∨ 255 ≤ old) →
      exec (.standingCredit c) s = .next (taken (.credit c))) ∧
    (.credit c ∈ s.standingQueue → c ≠ 0 → 1 ≤ old → old ≤ 254 →
      let t := (taken (.credit c)).rescored c (old - 1)
      graded t (old - 1) ∧ exec (.standingCredit c) s = .next t)

/-- SET_LIMITS with 1 ≤ warning < restricted ≤ 254 replaces the five limits, grades every configured client of 1 to 31 again in order
of number, with the notices of each change, and is answered OK; with thresholds out of that order it is BAD_REQUEST, uncharged, and
nothing changes (R102, R103, R104). That a client whose ring swap waits drops its notice even with no write in flight is the model's
choice (log entry 36). -/
def Obligations.SetLimitsRegradesEveryClient : Prop :=
  ∀ (s : State) (r : Record) (f : Decode.LimitFields),
    Ready s 0 .setLimits r → Decode.limitFields r = some f →
    (¬ (1 ≤ f.warning ∧ f.warning < f.restricted ∧ f.restricted ≤ 254) →
      exec (.setLimits 0) s = .next (s.replied 0 r .badRequest .empty)) ∧
    (1 ≤ f.warning ∧ f.warning < f.restricted ∧ f.restricted ≤ 254 →
      let limited : State := { s.recordTaken 0 with
        limits := { warning := f.warning, restricted := f.restricted, recovery := f.recovery, leaseCap := f.leaseCap,
                    waitCap := f.waitCap } }
      let graded := (Config.allClients.filter (fun c => c != 0 && (s.client c).state != .unconfigured)).foldl
        (fun t c => t.rescored c (t.standing c).score) limited
      exec (.setLimits 0) s = .next (graded.alsoReplied s 0 r .ok .empty))

/-- SET_STANDING of a DISABLED client not under teardown sets the score, clears a pending recovery, and grades the client again; of
client 0 it is BAD_REQUEST, of a client under teardown TEARDOWN_PENDING, of one in any other state WRONG_STATE, and then nothing
changes (R103, R111). That a client whose ring swap waits drops its notice even with no write in flight is the model's choice (log
entry 36). -/
def Obligations.SetStandingAtADisabledClient : Prop :=
  ∀ (s : State) (r : Record) (f : Decode.StandingFields),
    Ready s 0 .setStanding r → Decode.standingFields r = some f →
    (f.target = 0 → exec (.setStanding 0) s = .next (s.replied 0 r .badRequest .empty)) ∧
    (f.target ≠ 0 → (s.client f.target).teardown ≠ none →
      exec (.setStanding 0) s = .next (s.replied 0 r .teardownPending .empty)) ∧
    (f.target ≠ 0 → (s.client f.target).teardown = none → (s.client f.target).state ≠ .disabled →
      exec (.setStanding 0) s = .next (s.replied 0 r .wrongState .empty)) ∧
    (f.target ≠ 0 → (s.client f.target).teardown = none → (s.client f.target).state = .disabled →
      exec (.setStanding 0) s = .next ((State.rescored { s.recordTaken 0 with
        clock := { s.clock with recovery := s.clock.recovery.set f.target 0 },
        clients := s.clients.set f.target { s.client f.target with recoveryPending := false } }
          f.target f.score).alsoReplied s 0 r .ok .empty))

/-! ## Queue pairs -/

/-- What becomes of a notice: written into a free slot when no notice waits; otherwise kept in the list, of depth 8 for client 0 and 4
for the others, unless it is a WATCH notice or the list is full, when it is counted lost; dropped for a client to which nothing is
written. No other ring and no other part of the block changes (R95, R114, R126, R127). -/
def Obligations.NoticeIsWrittenKeptOrLost : Prop :=
  ∀ (s : State) (c : ClientId) (n : Notice), (s.client c).swap = none →
    let t := s.notify c n
    let r := s.ring c
    let free := r.place.cqSize - r.occupied - r.reserved
    let depth := if c = 0 then 8 else 4
    t = { s with rings := s.rings.set c (t.ring c), linkOut := t.linkOut } ∧
    ((s.client c).muted = true → t = s) ∧
    ((s.client c).muted = false → 1 ≤ free → r.notices = [] →
      (t.ring c).handed = r.handed ++ [.notice n] ∧ (t.ring c).reserved = r.reserved + 1 ∧ (t.ring c).notices = []) ∧
    ((s.client c).muted = false → ¬ (1 ≤ free ∧ r.notices = []) → n.isWatch = false → r.notices.length < depth →
      t.ring c = { r with notices := r.notices ++ [n] }) ∧
    ((s.client c).muted = false → ¬ (1 ≤ free ∧ r.notices = []) → (n.isWatch = true ∨ depth ≤ r.notices.length) →
      t.ring c = { r with lost := if r.lost < 65535 then r.lost + 1 else r.lost })

/-- POST words of a configured client, while RUNNING: a SUBMIT below the ring size sets the last posted producer index, an ARM sets
the armed flag. A SUBMIT out of range, a word for an UNCONFIGURED client, an undefined kind, and any word while the engine is not
RUNNING change nothing (R116, R118, R155). That every SUBMIT of a client between its first CONFIGURE_CLIENT and its ring swap is out
of range, because its ring size is 0 then, is the model's choice (log entry 33). -/
def Obligations.SubmitAndArmWords : Prop :=
  ∀ (s : State) (c : ClientId) (index : BitVec 12),
    (s.engine = .running → (s.client c).state ≠ .unconfigured → index.toNat < (s.ring c).place.sqSize →
      exec (.submit c index) s = .next { s with
        linkOut := [], rings := s.rings.set c { s.ring c with sqPosted := index.toNat } }) ∧
    (s.engine = .running → (s.client c).state ≠ .unconfigured →
      exec (.arm c index) s = .next { s with linkOut := [], rings := s.rings.set c { s.ring c with armed := true } }) ∧
    ((s.ring c).place.sqSize ≤ index.toNat → exec (.submit c index) s = .next s) ∧
    exec (.postUndefinedKind c index) s = .next s ∧
    (s.engine ≠ .running ∨ (s.client c).state = .unconfigured →
      exec (.submit c index) s = .next s ∧ exec (.arm c index) s = .next s ∧ exec (.consumed c index) s = .next s)

/-- A CONSUMED whose head lies between the old head and the producer moves the head, frees the slots and drains the pending list into
them; any other is ignored but for a charge of 2 (R117, R126, R127). That every CONSUMED of a client between its first
CONFIGURE_CLIENT and its ring swap is such another, because its ring size is 0 then, is the model's choice (log entry 33). -/
def Obligations.ConsumedFreesSlots : Prop :=
  ∀ (s : State) (c : ClientId) (index : BitVec 12),
    s.engine = .running → (s.client c).state ≠ .unconfigured →
    let r := s.ring c
    let distance := (index.toNat + r.place.cqSize - r.consumedHead) % r.place.cqSize
    let moved : RingContext := { r with consumedHead := index.toNat, occupied := r.occupied - distance }
    (index.toNat < r.place.cqSize → distance ≤ r.occupied →
      exec (.consumed c index) s = .next
        (s.quiet.withRing c (if (s.client c).muted then moved else moved.drained))) ∧
    (¬ (index.toNat < r.place.cqSize ∧ distance ≤ r.occupied) →
      exec (.consumed c index) s = .next (s.quiet.charged c 2))

/-- Whenever the read path is free and a client is eligible, the arbiter grants the path to client 0 if it is eligible, otherwise to
the first eligible client of 1 to 31 searching upward from the client after the round-robin position and wrapping from 31 to 1,
and sets the position to that client; a grant to client 0 leaves it; after an engine reset it is 0 (R119, R120, R121). That a
FETCH_GRANT with the path taken or nobody eligible leaves the block as it is, is the model's choice (log entry 2). -/
def Obligations.ArbiterGrantsTheReadPath : Prop :=
  State.reset.roundRobin = 0 ∧
  ∀ s : State, s.engine = .running → s.roundRobin ≤ 31 →
    let eligible := fun (c : ClientId) => (s.client c).state = .active ∧ (s.client c).teardown = none ∧
      1 ≤ ((s.ring c).sqPosted + (s.ring c).place.sqSize - (s.ring c).sqConsumer) % (s.ring c).place.sqSize ∧
      1 ≤ (s.ring c).place.cqSize - (s.ring c).occupied - (s.ring c).reserved ∧ (s.ring c).fetch = .idle
    let reading := ∃ c k left, (s.ring c).fetch = .fetching k left
    let turn := fun (c : ClientId) => (c.val + 30 - s.roundRobin) % 31
    let granted := fun (c : ClientId) (position : Nat) => exec .fetchGrant s = .next { s with
      roundRobin := position,
      rings := s.rings.set c { s.ring c with
        reserved := (s.ring c).reserved + 1, fetch := .fetching (s.ring c).sqConsumer false },
      linkOut := [.readBegin c ((s.ring c).place.sqBase + BitVec.ofNat 64 (64 * (s.ring c).sqConsumer))] }
    (¬ reading → eligible 0 → granted 0 s.roundRobin) ∧
    (∀ c, ¬ reading → ¬ eligible 0 → c ≠ 0 → eligible c →
      (∀ d, d ≠ 0 → eligible d → turn c ≤ turn d) → granted c c.val) ∧
    (reading ∨ (∀ c, ¬ eligible c) → exec .fetchGrant s = .next s)

/-- A read that returns without error for a client still ACTIVE and not under teardown advances the consumer index and puts the
record in hand; for a client that has left ACTIVE since the read began, whatever its state by now, or that is under teardown, the
record is discarded, the consumer index stays, and the reservation is released, with a drain into the freed slot (R121, R124,
R126). -/
def Obligations.ReadReturnsInHandOrDiscarded : Prop :=
  ∀ (s : State) (c : ClientId) (k : Nat) (left : Bool) (bytes : Record),
    s.engine = .running → (s.ring c).fetch = .fetching k left →
    (left = false → (s.client c).state = .active → (s.client c).teardown = none →
      exec (.fetchReadReturn ⟨c, s.epoch⟩ bytes) s = .next { s with
        linkOut := [],
        rings := s.rings.set c { s.ring c with
          sqConsumer := ((s.ring c).sqConsumer + 1) % (s.ring c).place.sqSize, fetch := .inHand bytes } }) ∧
    (left = true ∨ (s.client c).state ≠ .active ∨ (s.client c).teardown ≠ none →
      exec (.fetchReadReturn ⟨c, s.epoch⟩ bytes) s = .next (s.quiet.withRing c
        (if (s.client c).muted then (s.ring c).idled.freed else (s.ring c).idled.freed.drained)))

/-- A completion write that ends without error advances the producer index, flips the phase where it wraps to 0, occupies the slot,
gives back the reservation, and sends the interrupt message of an armed client, once; then the next record of the ring begins,
unless nothing is written to the client (R118, R125, R127). The model's choices here: the message is sent for a HALTED client too
(log entry 21), and while a ring swap waits it carries the new vector (log entry 10). -/
def Obligations.WriteEndOccupiesTheSlot : Prop :=
  ∀ (s : State) (c : ClientId) (w : WriteInFlight),
    s.engine = .running → (s.ring c).writing = some w →
    let r := s.ring c
    let p := (r.cqProducer + 1) % r.place.cqSize
    let ended : RingContext := { r with
      cqProducer := p, phase := if p = 0 then !r.phase else r.phase, occupied := r.occupied + 1, reserved := r.reserved - 1,
      writing := none, armed := false }
    let message := if r.armed then [LinkOutput.interrupt c (s.client c).config.vector] else []
    ((s.client c).muted = true ∨ r.waiting = [] →
      exec (.completionWriteEnd ⟨c, s.epoch⟩) s = .next { s with rings := s.rings.set c ended, linkOut := message }) ∧
    (∀ rec rest, (s.client c).muted = false → r.waiting = rec :: rest →
      let next : RingContext := { ended with writing := some (ended.writeOf rec), waiting := rest, lost := 0 }
      exec (.completionWriteEnd ⟨c, s.epoch⟩) s = .next { s with
        rings := s.rings.set c next, linkOut := message ++ ended.begins c next })

/-- The 32 bytes of every completion record (11.2, R123, R125, R154): of a response with each status, with its code, its cancel
reason, phase, lost count, consumer index and tag; with the body of a GRANTED, BUSY or TIMEOUT response and of the OK to RENEW,
QUERY_LOCK and QUERY_CLIENT; and of each of the six notices. Every byte that a record does not name is 0. -/
def Obligations.CompletionBytesOfAResponse : Prop :=
  let statuses : List (Status × Nat × Nat) :=
    [(.ok, 0, 0), (.granted, 1, 0), (.busy, 2, 0), (.timeout, 3, 0), (.cancelled .byRequest, 4, 1),
     (.cancelled .isolation, 4, 2), (.cancelled .forced, 4, 3), (.stale, 5, 0), (.unknownToken, 6, 0), (.leaseLost, 7, 0),
     (.alreadyHeld, 8, 0), (.duplicateWait, 9, 0), (.quotaHolds, 10, 0), (.quotaWaits, 11, 0), (.quotaWatches, 12, 0),
     (.poolEmpty, 13, 0), (.tableFull, 14, 0), (.nameDenied, 15, 0), (.badRequest, 16, 0), (.privilege, 17, 0),
     (.upgradeConflict, 18, 0), (.wrongMode, 19, 0), (.notFound, 20, 0), (.wrongState, 21, 0), (.badConfig, 22, 0),
     (.clientBusy, 23, 0), (.teardownPending, 24, 0)]
  let mode := fun (m : Mode) => match m with | .shared => 0 | .exclusive => 1
  let grade := fun (g : Grade) => match g with | .good => 0 | .warned => 1 | .restricted => 2
  let yes := fun (b : Bool) => if b then 1 else 0
  let side := fun (x : RingSide) => match x with | .submission => 0 | .completion => 1
  let report := fun (x : Report) =>
    [(24, 1, x.holder.val), (25, 1, x.holders), (26, 1, x.ahead), (27, 1, mode x.mode), (29, 1, 1)]
  let fits := fun (x : Report) => x.holders < 256 ∧ x.ahead < 256
  (∀ status, ∃ p ∈ statuses, p.1 = status) ∧
  ∀ (slot lost : Nat) (phase : Bool), lost < 65536 →
    let bytes := fun (record : Completion) =>
      completionBytes { slot := slot, phase := phase, lost := lost, record := record }
    (∀ (tag : Tag) (index : Nat), index < 65536 →
      let spells := fun (status : Status) (body : Body) (code reason : Nat) (fields : List (Nat × Nat × Nat)) =>
        BytesSay (bytes (.response { status := status, tag := tag, index := index, body := body }))
          ([(0, 1, 0), (1, 1, code), (2, 1, yes phase), (3, 1, reason), (4, 2, lost), (6, 2, index), (8, 4, tag.toNat)] ++ fields)
      (∀ status code reason, (status, code, reason) ∈ statuses → spells status .empty code reason []) ∧
      (∀ (token : Token) lease waited count, lease < 65536 → waited < 65536 → count < 256 →
        let held := [(12, 8, token.toNat), (20, 2, lease), (22, 2, waited), (28, 1, count)]
        spells .granted (.granted token lease waited none count) 1 0 held ∧
        ∀ x, fits x → spells .granted (.granted token lease waited (some x) count) 1 0 (held ++ report x)) ∧
      (∀ x bitmap, fits x → bitmap < 256 → spells .busy (.busy x bitmap) 2 0 ((28, 1, bitmap) :: report x)) ∧
      (∀ x waited, fits x → waited < 65536 → spells .timeout (.timeout waited x) 3 0 ((22, 2, waited) :: report x)) ∧
      (∀ lease, lease < 65536 → spells .ok (.renewed lease) 0 0 [(20, 2, lease)]) ∧
      (∀ x : LockSnapshot, x.holders < 256 → x.waiters < 65536 → x.contention < 65536 → spells .ok (.lock x) 0 0
        [(12, 1, mode x.mode), (13, 1, x.holders), (14, 1, x.firstHolder.val), (15, 1, x.headClient.val),
         (16, 1, mode x.headMode), (17, 1, yes x.upgradePending), (18, 2, x.waiters), (20, 2, x.contention)]) ∧
      (∀ x : ClientSnapshot, x.score < 256 → x.holds < 65536 → x.waits < 256 → x.watches < 256 → x.reservations < 65536 →
        x.lost < 65536 → x.recovery < 65536 → spells .ok (.client x) 0 0
        [(12, 1, match x.state with
            | .unconfigured => 0 | .disabled => 1 | .active => 2 | .isolated => 3 | .recovering => 4 | .halted => 5),
         (13, 1, x.score), (14, 1, grade x.grade), (15, 1, yes x.teardown), (16, 2, x.holds), (18, 1, x.waits),
         (19, 1, x.watches), (20, 2, x.reservations), (22, 2, x.lost), (24, 2, x.recovery)])) ∧
    (let spells := fun (n : Notice) (kind : Nat) (fields : List (Nat × Nat × Nat)) =>
       BytesSay (bytes (.notice n)) ([(0, 1, kind), (2, 1, yes phase), (4, 2, lost)] ++ fields);
      (∀ (name : Name) (token : Token) (tag : Tag),
        spells (.expired name token tag) 1 [(8, 4, tag.toNat), (12, 8, token.toNat), (20, 4, name.toNat)] ∧
        spells (.revoked name token tag) 2 [(8, 4, tag.toNat), (12, 8, token.toNat), (20, 4, name.toNat)]) ∧
      (∀ old new score, score < 256 →
        spells (.standing old new score) 3 [(12, 1, grade old), (13, 1, grade new), (14, 1, score)]) ∧
      (∀ (tag : Tag) kind (name : Name) (holder : ClientId) (token : Token) m,
        spells (.watch tag kind name holder token m) 4
          [(8, 4, tag.toNat), (12, 8, token.toNat), (20, 4, name.toNat),
           (24, 1, match kind with | .granted => 0 | .released => 1 | .expired => 2 | .revoked => 3 | .freed => 4),
           (25, 1, holder.val), (26, 1, mode m)]) ∧
      (∀ (c : ClientId) ring kind index, index < 65536 →
        spells (.clientFault c ring kind index) 5
          [(12, 1, c.val), (13, 1, side ring),
           (14, 1, match kind with | .unreachable => 1 | .linkTimeout => 2 | .address => 3), (16, 2, index)]) ∧
      (∀ (c : ClientId) cause score, score < 256 →
        spells (.clientStanding c cause score) 6
          [(12, 1, c.val), (13, 1, match cause with | .enteredRestricted => 1 | .isolated => 2 | .returnedToActive => 3),
           (14, 1, score)]))

/-! ## Client lifecycle -/

/-- A lifecycle command that names client 0 is BAD_REQUEST, a client under teardown TEARDOWN_PENDING, and a client in a state that the
command does not accept WRONG_STATE; each refusal changes nothing (R109, R130, R133, R135, R136, R137). -/
def Obligations.LifecycleRefusalsInOrder : Prop :=
  ∀ (op : Decode.Opcode) (s : State) (r : Record) (c : ClientId),
    Ready s 0 op r → Decode.clientField r = some c →
    op = .enableClient ∨ op = .disableClient ∨ op = .resetClient ∨ op = .reinstateClient →
    let accepts := match op with
      | .enableClient => (s.client c).state = .disabled
      | .disableClient => (s.client c).state = .active ∨ (s.client c).state = .recovering
      | .resetClient => (s.client c).state ≠ .unconfigured
      | _ => (s.client c).state = .isolated
    (c = 0 → exec (commandOf op 0) s = .next (s.replied 0 r .badRequest .empty)) ∧
    (c ≠ 0 → (s.client c).teardown ≠ none → exec (commandOf op 0) s = .next (s.replied 0 r .teardownPending .empty)) ∧
    (c ≠ 0 → (s.client c).teardown = none → ¬ accepts → exec (commandOf op 0) s = .next (s.replied 0 r .wrongState .empty))

/-- ENABLE_CLIENT at a DISABLED client decides on its standing: a pending recovery resumes, a score of 255 isolates it with the
answer waiting for the teardown, otherwise it is ACTIVE. DISABLE_CLIENT keeps all that the client has: an ACTIVE client becomes
DISABLED, and a read in flight for it will be discarded when it returns; a RECOVERING one too, its recovery remaining frozen and
marked pending, and no tick that has arrived visits it any more (R81, R86, R112, R135, R136). -/
def Obligations.EnableAndDisableClient : Prop :=
  (∀ (s : State) (r : Record) (c : ClientId),
    Ready s 0 .enableClient r → Decode.clientField r = some c → c ≠ 0 → (s.client c).teardown = none →
    (s.client c).state = .disabled →
    ((s.client c).recoveryPending = true →
      exec (.enableClient 0) s = .next { s.replied 0 r .ok .empty with
        clients := s.clients.set c { s.client c with state := .recovering, recoveryPending := false } }) ∧
    ((s.client c).recoveryPending = false → (s.standing c).score = 255 →
      exec (.enableClient 0) s = .next { s.recordTaken 0 with
        clients := s.clients.set c { s.client c with
          state := .isolated,
          teardown := some { cause := .isolation,
                             waiting := some { tag := Decode.tag r, index := (s.ring 0).sqConsumer } } } }) ∧
    ((s.client c).recoveryPending = false → (s.standing c).score ≠ 255 →
      exec (.enableClient 0) s = .next { s.replied 0 r .ok .empty with
        clients := s.clients.set c { s.client c with state := .active } })) ∧
  (∀ (s : State) (r : Record) (c : ClientId),
    Ready s 0 .disableClient r → Decode.clientField r = some c → c ≠ 0 → (s.client c).teardown = none →
    ((s.client c).state = .active → (∀ k left, (s.ring c).fetch ≠ .fetching k left) →
      exec (.disableClient 0) s = .next { s.replied 0 r .ok .empty with
        clients := s.clients.set c { s.client c with state := .disabled } }) ∧
    (∀ k left, (s.client c).state = .active → (s.ring c).fetch = .fetching k left →
      exec (.disableClient 0) s = .next { s.replied 0 r .ok .empty with
        clients := s.clients.set c { s.client c with state := .disabled },
        rings := (s.replied 0 r .ok .empty).rings.set c { s.ring c with fetch := .fetching k true } }) ∧
    ((s.client c).state = .recovering →
      ∃ t, exec (.disableClient 0) s = .next t ∧
        t = { s.replied 0 r .ok .empty with
              clients := s.clients.set c { s.client c with state := .disabled, recoveryPending := true },
              clock := { s.clock with sweep := t.clock.sweep, owed := t.clock.owed } } ∧
        t.clock.sweep = { s.clock.sweep with clients := s.clock.sweep.clients.filter (· != c) } ∧
        t.clock.owed = s.clock.owed.map (fun w => { w with clients := w.clients.filter (· != c) })))

/-- RESET_CLIENT begins the client's reset teardown and keeps its answer waiting: an ACTIVE, ISOLATED or RECOVERING client becomes
DISABLED, a HALTED one stays HALTED; the recovery is cleared, and records waiting behind a write in flight are not written (R127,
R137, R140). And REINSTATE_CLIENT makes an ISOLATED client RECOVERING with the recovery count in force (R86, R109). -/
def Obligations.ResetAndReinstateClient : Prop :=
  ∀ (s : State) (r : Record) (c : ClientId), Decode.clientField r = some c → c ≠ 0 → (s.client c).teardown = none →
    (Ready s 0 .resetClient r → (s.client c).state ≠ .unconfigured →
      exec (.resetClient 0) s = .next { s.recordTaken 0 with
        clients := s.clients.set c { s.client c with
          state := if (s.client c).state = .halted then .halted else .disabled, recoveryPending := false,
          teardown := some { cause := .reset,
                             waiting := some { tag := Decode.tag r, index := (s.ring 0).sqConsumer } } },
        clock := ({ s with clock := { s.clock with recovery := s.clock.recovery.set c 0 } }.forgetClient c).clock,
        rings := (s.recordTaken 0).rings.set c { s.ring c with
          waiting := [], reserved := (s.ring c).reserved - (s.ring c).waiting.length } }) ∧
    (Ready s 0 .reinstateClient r → (s.client c).state = .isolated →
      exec (.reinstateClient 0) s = .next { s.replied 0 r .ok .empty with
        clients := s.clients.set c { s.client c with state := .recovering },
        clock := { s.clock with recovery := s.clock.recovery.set c s.limits.recovery } })

/-- CONFIGURE_CLIENT, in the order of R134: client 0 BAD_REQUEST, under teardown TEARDOWN_PENDING, a client neither UNCONFIGURED nor
DISABLED and empty CLIENT_BUSY, a base, size or quota out of its terms BAD_CONFIG. Accepted, it stores the configuration with its
defaults, makes the client DISABLED, and waits for the writes to the old completion ring (R133, R134). -/
def Obligations.ConfigureClientInOrder : Prop :=
  ∀ (s : State) (r : Record) (f : Decode.ConfigureFields),
    Ready s 0 .configureClient r → Decode.configureFields r = some f →
    let c := f.target
    let open' := (s.client c).state = .unconfigured ∨
      ((s.client c).state = .disabled ∧ (s.account c).holds = [] ∧ (s.account c).waits = 0 ∧
        (∀ w ∈ s.watches, w.owner ≠ c) ∧ (s.ring c).fetch = .idle)
    let size := fun (n : Nat) => ∃ k, 4 ≤ k ∧ k ≤ 12 ∧ n = 2 ^ k
    let valid := f.sqBase.toNat % 4096 = 0 ∧ f.cqBase.toNat % 4096 = 0 ∧ size f.sqSize ∧ size f.cqSize ∧
      f.holdQuota ≤ 256 ∧ f.waitQuota ≤ 64
    (c = 0 → exec (.configureClient 0) s = .next (s.replied 0 r .badRequest .empty)) ∧
    (c ≠ 0 → (s.client c).teardown ≠ none →
      exec (.configureClient 0) s = .next (s.replied 0 r .teardownPending .empty)) ∧
    (c ≠ 0 → (s.client c).teardown = none → ¬ open' →
      exec (.configureClient 0) s = .next (s.replied 0 r .clientBusy .empty)) ∧
    (c ≠ 0 → (s.client c).teardown = none → open' → ¬ valid →
      exec (.configureClient 0) s = .next (s.replied 0 r .badConfig .empty)) ∧
    (c ≠ 0 → (s.client c).teardown = none → open' → valid → (s.client c).swap = none →
      exec (.configureClient 0) s = .next { s.recordTaken 0 with
        clients := s.clients.set c { s.client c with
          state := .disabled,
          config := { vector := f.vector, windowCode := f.windowCode, windowMask := f.windowMask,
                      defaultLease := if f.defaultLease = 0 then 1000 else f.defaultLease,
                      holdQuota := if f.holdQuota = 0 then 32 else f.holdQuota,
                      waitQuota := if f.waitQuota = 0 then 8 else f.waitQuota },
          swap := some { place := { sqBase := f.sqBase, sqSize := f.sqSize, cqBase := f.cqBase, cqSize := f.cqSize },
                         old := (s.client c).config,
                         waiting := [{ tag := Decode.tag r, index := (s.ring 0).sqConsumer }] } } })

/-- The rings of a configured client are replaced once no write to the old completion ring is in flight: the context takes its reset
values with the new bases and sizes, and then the OK is handed on; with a write in flight it waits (R114, R127, R134). The model's
choices, where an ENABLE_CLIENT reached the client while the swap waited: the reservations stay, a record in hand stays in hand, a
read in flight is to be discarded, and the swap waits while the new ring has fewer slots than are reserved (log entry 10). -/
def Obligations.RingSwapGivesAFreshContext : Prop :=
  ∀ (s : State) (c : ClientId) (w : RingSwap) (ref : CommandRef),
    s.engine = .running → c ≠ 0 → (s.client c).swap = some w → w.waiting = [ref] →
    let swapped := fun (reserved : Nat) (fetch : FetchState) =>
      exec (.configureClientRingSwap c) s = .next
        (State.answeredTo { s with
            linkOut := [], clients := s.clients.set c { s.client c with swap := none },
            rings := s.rings.set c
              { place := w.place, sqConsumer := 0, sqPosted := 0, cqProducer := 0, phase := true, consumedHead := 0,
                occupied := 0, reserved := reserved, notices := [], lost := 0, armed := false, fetch := fetch, writing := none,
                waiting := [] } }
          0 { status := .ok, tag := ref.tag, index := ref.index, body := .empty })
    ((s.ring c).writing = none → (s.ring c).reserved = 0 → (s.ring c).fetch = .idle → swapped 0 .idle) ∧
    ((s.ring c).writing = none → (s.ring c).reserved ≤ w.place.cqSize →
      ((s.ring c).fetch = .idle → swapped (s.ring c).reserved .idle) ∧
      (∀ k left, (s.ring c).fetch = .fetching k left → swapped (s.ring c).reserved (.fetching k true)) ∧
      (∀ bytes, (s.ring c).fetch = .inHand bytes → swapped (s.ring c).reserved (.inHand bytes))) ∧
    ((s.ring c).writing ≠ none ∨ w.place.cqSize < (s.ring c).reserved →
      exec (.configureClientRingSwap c) s = .next s)

/-! ## Teardown -/

/-- The second step of a teardown, once no record is in hand: a waiter or a pending upgrade of the client ends CANCELLED/ISOLATION, or
with nothing written for a halted or resetting client; here where the pass that follows grants nobody (R42, R44, R72, R140, R141). -/
def Obligations.TeardownRemovesTheWaits : Prop :=
  ∀ (s : State) (c : ClientId) (name : Name) (e : LockEntry),
    s.engine = .running → s.nextToken ≤ 2 ^ 64 → (s.client c).teardown ≠ none → (∀ r, (s.ring c).fetch ≠ .inHand r) →
    s.entry? name = some e → e.Lawful →
    (∀ x ∈ e.waiters, x.client = c →
      (e.waiters.head? ≠ some x ∨ (e.mode = .exclusive ∧ ∀ y ∈ e.waiters, y ≠ x → s.fit y.client)) →
      ∃ t, exec (.teardownRemoveWaiter c name) s = .next t ∧
        t = { (s.quiet.answeredTo c
                { status := .cancelled .isolation, tag := x.tag, index := x.index, body := .empty }).mapAccount c
                  Account.waited with table := t.table, poolFree := s.poolFree + 1 } ∧
        s.differsAt t name (some { e with waiters := e.waiters.filter (fun y => y.client != c) })) ∧
    (∀ u, e.upgrade = some u → u.client = c → s.stuckBehind e.waiters →
      ∃ t, exec (.teardownRemoveUpgrade c name) s = .next t ∧
        t = { (s.quiet.answeredTo c
                { status := .cancelled .isolation, tag := u.tag, index := u.index, body := .empty }).mapAccount c
                  Account.waited with table := t.table } ∧
        s.differsAt t name (some { e with upgrade := none }))

/-- The third step, with no wait of the client left, revokes the oldest hold of its hold list, here at a lock on which nobody waits:
the token heads the expired-token list, REVOKED is told, and FREED after it when the hold was the last, and the REVOKED notice follows
the client's state. An upgrade still pending on the hold would end with it CANCELLED/ISOLATION (R12, R14, R64, R72, R141, R143). That a
listed hold which no entry carries is taken out of the list, and nothing else, and that a client whose ring swap waits drops its
notice even with no write in flight, are the model's choices (log entries 30 and 36). -/
def Obligations.TeardownRevokesTheOldestHold : Prop :=
  ∀ (s : State) (c : ClientId) (item : HoldItem) (rest : List HoldItem),
    s.engine = .running → s.nextToken ≤ 2 ^ 64 → (s.client c).teardown ≠ none → (∀ r, (s.ring c).fetch ≠ .inHand r) →
    (s.account c).waits = 0 → (s.account c).holds = item :: rest →
    (∀ (e : LockEntry) (i : SlotId) (h : Holder), s.holdsAt c item.name item.token e i h →
      let noticed := s.quiet.noticedTo c (.revoked item.name item.token h.tag)
      let gone : WatchEvent := { kind := .revoked, name := item.name, client := c, token := item.token, mode := h.mode }
      let freed : WatchEvent := { kind := .freed, name := item.name, client := 0, token := 0, mode := .shared }
      (e.waiters = [] → e.upgrade = none → (∀ j, j ≠ i → e.slots[j] = none) →
        ∃ t, exec (.teardownRevokeHold c) s = .next t ∧
          t = { (noticed.told [gone, freed]).mapAccount c (fun a => a.lost item.token) with
                table := t.table, freeEntries := s.freeEntries + 1, clock := (s.forgetEntry item.name).clock } ∧
          s.differsAt t item.name none) ∧
      (∀ j, e.waiters = [] → e.upgrade = none → j ≠ i → e.slots[j] ≠ none →
        ∃ t, exec (.teardownRevokeHold c) s = .next t ∧
          t = { (noticed.told [gone]).mapAccount c (fun a => a.lost item.token) with table := t.table } ∧
          s.differsAt t item.name (some { e with slots := e.slots.set i none })) ∧
      (∀ j u, e.upgrade = some u → u.slot = i → u.client = c → s.stuckBehind e.waiters → j ≠ i → e.slots[j] ≠ none →
        ∃ t, exec (.teardownRevokeHold c) s = .next t ∧
          t = { ((noticed.answeredTo c
                    { status := .cancelled .isolation, tag := u.tag, index := u.index, body := .empty }).told [gone]).mapAccount c
                      (fun a => (a.lost item.token).waited) with table := t.table } ∧
          s.differsAt t item.name (some { e with slots := e.slots.set i none, upgrade := none }))) ∧
    (s.holdsNot c item.name item.token →
      exec (.teardownRevokeHold c) s = .next (s.quiet.mapAccount c (fun a => a.letGo item.token)))

/-- With waits and holds gone, the fourth step removes every watch of the client, and nothing else. The teardown ends when no watch,
no read and no write of the client is left, with the end actions of its cause: for a reset the clearing steps and the OK; for an
isolation the CLIENT_STANDING notice of a client still ISOLATED and the OK of a command that waits; for a halt none (R97, R108, R132,
R137, R142). That a charge or credit handed on and not yet taken stays in transit through a reset's end is the model's choice (log
entry 35). -/
def Obligations.TeardownEndActions : Prop :=
  ∀ (s : State) (c : ClientId) (d : Teardown),
    s.engine = .running → c ≠ 0 → (s.client c).teardown = some d → (∀ r, (s.ring c).fetch ≠ .inHand r) →
    (s.account c).waits = 0 → (s.account c).holds = [] →
    let ended := fun (t : State) => { t with clients := t.clients.set c { s.client c with teardown := none }, linkOut := [] }
    let told := fun (t : State) => match d.waiting with
      | some ref => t.answeredTo 0 { status := .ok, tag := ref.tag, index := ref.index, body := .empty }
      | none => t
    exec (.teardownRemoveWatches c) s = .next { s with linkOut := [], watches := s.watches.filter (fun w => w.owner != c) } ∧
    ((∀ w ∈ s.watches, w.owner ≠ c) → (s.ring c).fetch = .idle → (s.ring c).writing = none →
      (d.cause = .halt → exec (.teardownEnd c) s = .next (told (ended s))) ∧
      (d.cause = .isolation → (s.client c).state = .isolated →
        exec (.teardownEnd c) s = .next (told ((ended s).noticedTo 0 (.clientStanding c .isolated 255)))) ∧
      (d.cause = .isolation → (s.client c).state ≠ .isolated → exec (.teardownEnd c) s = .next (told (ended s))) ∧
      (d.cause = .reset → exec (.teardownEnd c) s = .next (told { s with
        linkOut := [], clients := s.clients.set c { s.client c with state := .disabled, teardown := none },
        accounts := s.accounts.set c { s.account c with expired := [] },
        standings := s.standings.set c { score := 0, grade := .good },
        rings := s.rings.set c
          { place := (s.ring c).place, sqConsumer := 0, sqPosted := 0, cqProducer := 0, phase := true, consumedHead := 0,
            occupied := 0, reserved := 0, notices := [], lost := 0, armed := false, fetch := .idle, writing := none,
            waiting := [] } }))) ∧
    ((∃ w ∈ s.watches, w.owner = c) ∨ (s.ring c).fetch ≠ .idle ∨ (s.ring c).writing ≠ none →
      exec (.teardownEnd c) s = .next s)

/-! ## Faults and engine control -/

/-- A read of a submission ring of clients 1 to 31 that ends in error: the reservation is released, the fetch state is idle, the fault,
with the consumer index at which the read began, is offered to the capture, and the client is HALTED with a halt teardown unless one is in progress; records behind a write in flight
are not written, and CLIENT_FAULT goes to the control queue. An already HALTED client brings no second notice (R121, R127, R145,
R146, R147; that the freed slot is drained first is the model's choice, log entry 11). -/
def Obligations.ReadFaultHaltsTheClient : Prop :=
  ∀ (s : State) (c : ClientId) (k : Nat) (left : Bool) (kind : FaultKind),
    s.engine = .running → c ≠ 0 → (s.ring c).fetch = .fetching k left →
    let fault : FaultInfo := { client := c, ring := .submission, index := k, kind := kind }
    let settled := if (s.client c).muted then (s.ring c).idled.freed else (s.ring c).idled.freed.drained
    let offered := { s.quiet.withRing c settled with capture := s.capture.offered fault }
    ((s.client c).state = .halted → exec (.clientSubmissionReadFault ⟨c, s.epoch⟩ kind) s = .next offered) ∧
    ((s.client c).state ≠ .halted →
      exec (.clientSubmissionReadFault ⟨c, s.epoch⟩ kind) s = .next
        (State.noticedTo { offered with
          clock := (s.forgetClient c).clock,
          clients := s.clients.set c { s.client c with
            state := .halted, teardown := some ((s.client c).teardown.getD { cause := .halt, waiting := none }) },
          rings := s.rings.set c { settled with waiting := [], reserved := settled.reserved - settled.waiting.length } }
            0 (.clientFault c .submission kind k)))

/-- A write to a completion ring of clients 1 to 31 that ends in error: the record is lost, producer index and phase stay, and the rest
is as for a read; a CONFIGURE_CLIENT that waited for the write takes its old configuration back and answers CLIENT_BUSY (R125, R127,
R134, R145, R146, R147; that the freed slot is drained first is the model's choice, log entry 11). -/
def Obligations.WriteFaultHaltsTheClient : Prop :=
  ∀ (s : State) (c : ClientId) (kind : FaultKind) (w : WriteInFlight),
    s.engine = .running → c ≠ 0 → (s.ring c).writing = some w →
    let fault : FaultInfo := { client := c, ring := .completion, index := w.slot, kind := kind }
    let freed := if (s.client c).muted then (s.ring c).freed else (s.ring c).freed.drained
    let settled := { freed with writing := none }
    let offered := { s.quiet with rings := s.rings.set c settled, capture := s.capture.offered fault }
    let halted := fun (config : ClientConfig) => State.noticedTo { offered with
        clock := (s.forgetClient c).clock,
        clients := s.clients.set c { s.client c with
          config := config, state := .halted, swap := none,
          teardown := some ((s.client c).teardown.getD { cause := .halt, waiting := none }) },
        rings := s.rings.set c { settled with waiting := [], reserved := settled.reserved - settled.waiting.length } }
          0 (.clientFault c .completion kind w.slot)
    ((s.client c).swap = none → (s.client c).state = .halted →
      exec (.clientCompletionWriteFault ⟨c, s.epoch⟩ kind) s = .next offered) ∧
    ((s.client c).swap = none → (s.client c).state ≠ .halted →
      exec (.clientCompletionWriteFault ⟨c, s.epoch⟩ kind) s = .next (halted (s.client c).config)) ∧
    (∀ v ref, (s.client c).swap = some v → v.waiting = [ref] → (s.client c).state = .halted →
      exec (.clientCompletionWriteFault ⟨c, s.epoch⟩ kind) s = .next (State.answeredTo { offered with
          clients := s.clients.set c { s.client c with config := v.old, swap := none } }
        0 { status := .clientBusy, tag := ref.tag, index := ref.index, body := .empty })) ∧
    (∀ v ref, (s.client c).swap = some v → v.waiting = [ref] → (s.client c).state ≠ .halted →
      exec (.clientCompletionWriteFault ⟨c, s.epoch⟩ kind) s = .next ((halted v.old).answeredTo 0
        { status := .clientBusy, tag := ref.tag, index := ref.index, body := .empty }))

/-- A host link fault on a control ring is offered to the capture and halts the engine with its cause; the access is settled, and all
else of the block stands (R145, R147, R149). -/
def Obligations.ControlFaultHaltsTheEngine : Prop :=
  ∀ (s : State) (kind : FaultKind), s.engine = .running →
    (∀ k left, (s.ring 0).fetch = .fetching k left →
      exec (.controlReadFault ⟨kind, s.epoch⟩) s = .next { s with
        linkOut := [], engine := .halted, haltCause := .controlReadFault,
        capture := s.capture.offered { client := 0, ring := .submission, index := k, kind := kind },
        rings := s.rings.set 0 { s.ring 0 with fetch := .idle, reserved := (s.ring 0).reserved - 1 } }) ∧
    (∀ w, (s.ring 0).writing = some w →
      exec (.controlWriteFault ⟨kind, s.epoch⟩) s = .next { s with
        linkOut := [], engine := .halted, haltCause := .controlWriteFault,
        capture := s.capture.offered { client := 0, ring := .completion, index := w.slot, kind := kind },
        rings := s.rings.set 0 { s.ring 0 with writing := none, reserved := (s.ring 0).reserved - 1 } })

/-- START in STOPPED starts the engine on good control ring registers, with client 0's rings from them and the Lease Clock from 0, and
is refused BAD_CONTROL_RING on any others; in RUNNING and HALTED it is ignored (R79, R128, R148). -/
def Obligations.StartJudgesTheControlRings : Prop :=
  ∀ s : State,
    let size := fun (n : Nat) => ∃ k, 4 ≤ k ∧ k ≤ 12 ∧ n = 2 ^ k
    let good := s.regs.sqBaseLow.toNat % 4096 = 0 ∧ s.regs.cqBaseLow.toNat % 4096 = 0 ∧
      size (s.regs.sizes.toNat % 65536) ∧ size (s.regs.sizes.toNat / 65536)
    (s.engine = .stopped → good →
      exec .start s = .next { s with
        engine := .running, startRefusal := .none, linkOut := [], clock := { s.clock with elapsed := 0, owed := [] },
        rings := s.rings.set 0 { s.ring 0 with place :=
          { sqBase := s.regs.sqBaseHigh ++ s.regs.sqBaseLow, sqSize := s.regs.sizes.toNat % 65536,
            cqBase := s.regs.cqBaseHigh ++ s.regs.cqBaseLow, cqSize := s.regs.sizes.toNat / 65536 } } }) ∧
    (s.engine = .stopped → ¬ good → exec .start s = .next { s with startRefusal := .badControlRing, linkOut := [] }) ∧
    (s.engine ≠ .stopped → exec .start s = .next s)

/-- Writes of the register window: the five control ring registers take their value in STOPPED and keep it otherwise; ENGINE CONTROL
takes a soft reset or a START by its two bits and ignores a word with neither; every other offset but POST and FAULT CLEAR ignores
writes; FAULT CLEAR empties the capture in every engine state; a POST word is the command that its bits name, and bits 29 and 23 to 12
are not examined. Reads: a control ring register gives back what was written, IDENT the part and the design revision, ENGINE STATUS
the state and the two causes, FAULT CAPTURE the latched fault with the full bit and the overflow count, and the write-only and
unnamed offsets 0 (11.3, R116, R147, R148, R155). The model's choices here: the fault's own bits read 0 in an empty capture (log
entry 32), and the bits of ENGINE STATUS and FAULT CAPTURE that 11.3 gives no contents read 0 (log entry 34). -/
def Obligations.RegisterWindowWrites : Prop :=
  ∀ (s : State) (offset : BitVec 12) (value : Word),
    let rings := [(0x010 : BitVec 12), 0x014, 0x018, 0x01C, 0x020]
    let overflow := s.capture.overflow
    (s.engine = .stopped → offset ∈ rings →
      ∃ t, exec (.registerWrite offset value) s = .next t ∧ t = { s with regs := t.regs } ∧ t.readRegister offset = value ∧
        ∀ other, other ≠ offset → t.readRegister other = s.readRegister other) ∧
    (exec (.registerWrite 0x004 value) s =
      if value.getLsbD 1 then exec (.softReset (value.getLsbD 0)) s
      else if value.getLsbD 0 then exec .start s
      else .next s) ∧
    (offset ∉ [(0x004 : BitVec 12), 0x040, 0x088] → s.engine ≠ .stopped ∨ offset ∉ rings →
      exec (.registerWrite offset value) s = .next s) ∧
    exec (.faultClear value) s = .next { s with capture := { latch := none, overflow := 0 } } ∧
    exec (.registerWrite 0x088 value) s = exec (.faultClear value) s ∧
    (∀ (kind : BitVec 2) (a : BitVec 1) (c : ClientId) (b : BitVec 12) (index : BitVec 12),
      let word : Word := kind ++ a ++ BitVec.ofNat 5 c.val ++ b ++ index
      exec (.registerWrite 0x040 word) s =
        if kind = 0 then exec (.submit c index) s
        else if kind = 1 then exec (.consumed c index) s
        else if kind = 2 then exec (.arm c index) s
        else exec (.postUndefinedKind c index) s) ∧
    (offset ∉ [(0x000 : BitVec 12), 0x008, 0x010, 0x014, 0x018, 0x01C, 0x020, 0x080, 0x084] → s.readRegister offset = 0) ∧
    s.readRegister 0x000 = (0x0420 : BitVec 16) ++ Config.designRevision ∧
    (s.readRegister 0x008).toNat =
      (match s.engine with | .stopped => 0 | .running => 1 | .halted => 2) +
      2 ^ 4 * (match s.haltCause with | .none => 0 | .controlReadFault => 1 | .controlWriteFault => 2 | .tokenSpace => 3) +
      2 ^ 8 * (match s.startRefusal with | .none => 0 | .badControlRing => 1) ∧
    (∀ f, s.capture.latch = some f → overflow ≤ 255 → f.index < 65536 →
      (s.readRegister 0x080).toNat = 2 ^ 31 + 2 ^ 16 * overflow +
        2 ^ 12 * (match f.kind with | .unreachable => 1 | .linkTimeout => 2 | .address => 3) +
        2 ^ 8 * (match f.ring with | .submission => 0 | .completion => 1) + f.client.val ∧
      (s.readRegister 0x084).toNat = f.index) ∧
    (s.capture.latch = none → overflow ≤ 255 →
      (s.readRegister 0x080).toNat = 2 ^ 16 * overflow ∧ s.readRegister 0x084 = 0)
end

