-- ==== Sys2Proof/Laws/State.lean ====
section
/-! SUPPORT. One lemma per field per update of State, true by rfl, so that no proof unfolds a record update; and what the
per-client tables read after a write. -/

namespace Sys2Proof.Machine

namespace State

/-! ## The per-client tables: a read after a write -/

@[simp] theorem ring_setRing_self (s : State) (c : ClientId) (v : RingContext) : (s.setRing c v).ring c = v := by
  simp [ring, setRing]

theorem ring_setRing_of_ne (s : State) (c d : ClientId) (v : RingContext) (h : d ≠ c) : (s.setRing c v).ring d = s.ring d := by
  have : c.val ≠ d.val := fun e => h (Fin.ext e.symm)
  simp [ring, setRing, this]

theorem ring_setRing (s : State) (c d : ClientId) (v : RingContext) :
    (s.setRing c v).ring d = if d = c then v else s.ring d := by
  by_cases h : d = c
  · subst h; simp
  · simp [ring_setRing_of_ne, h]

@[simp] theorem client_setClient_self (s : State) (c : ClientId) (v : ClientRecord) : (s.setClient c v).client c = v := by
  simp [client, setClient]

theorem client_setClient_of_ne (s : State) (c d : ClientId) (v : ClientRecord) (h : d ≠ c) : (s.setClient c v).client d = s.client d := by
  have : c.val ≠ d.val := fun e => h (Fin.ext e.symm)
  simp [client, setClient, this]

theorem client_setClient (s : State) (c d : ClientId) (v : ClientRecord) :
    (s.setClient c v).client d = if d = c then v else s.client d := by
  by_cases h : d = c
  · subst h; simp
  · simp [client_setClient_of_ne, h]

@[simp] theorem standing_setStanding_self (s : State) (c : ClientId) (v : Standing) : (s.setStanding c v).standing c = v := by
  simp [standing, setStanding]

theorem standing_setStanding_of_ne (s : State) (c d : ClientId) (v : Standing) (h : d ≠ c) : (s.setStanding c v).standing d = s.standing d := by
  have : c.val ≠ d.val := fun e => h (Fin.ext e.symm)
  simp [standing, setStanding, this]

theorem standing_setStanding (s : State) (c d : ClientId) (v : Standing) :
    (s.setStanding c v).standing d = if d = c then v else s.standing d := by
  by_cases h : d = c
  · subst h; simp
  · simp [standing_setStanding_of_ne, h]

@[simp] theorem account_setAccount_self (s : State) (c : ClientId) (v : Account) : (s.setAccount c v).account c = v := by
  simp [account, setAccount]

theorem account_setAccount_of_ne (s : State) (c d : ClientId) (v : Account) (h : d ≠ c) : (s.setAccount c v).account d = s.account d := by
  have : c.val ≠ d.val := fun e => h (Fin.ext e.symm)
  simp [account, setAccount, this]

theorem account_setAccount (s : State) (c d : ClientId) (v : Account) :
    (s.setAccount c v).account d = if d = c then v else s.account d := by
  by_cases h : d = c
  · subst h; simp
  · simp [account_setAccount_of_ne, h]

@[simp] theorem recovery_setRecovery_self (s : State) (c : ClientId) (v : Nat) : (s.setRecovery c v).recovery c = v := by
  simp [recovery, setRecovery]

theorem recovery_setRecovery_of_ne (s : State) (c d : ClientId) (v : Nat) (h : d ≠ c) : (s.setRecovery c v).recovery d = s.recovery d := by
  have : c.val ≠ d.val := fun e => h (Fin.ext e.symm)
  simp [recovery, setRecovery, this]

theorem recovery_setRecovery (s : State) (c d : ClientId) (v : Nat) :
    (s.setRecovery c v).recovery d = if d = c then v else s.recovery d := by
  by_cases h : d = c
  · subst h; simp
  · simp [recovery_setRecovery_of_ne, h]

/-! ## Every other field after an update -/

@[simp] theorem pending_setRing (s : State) (c : ClientId) (r : RingContext) : (s.setRing c r).pending = s.pending := rfl
@[simp] theorem epoch_setRing (s : State) (c : ClientId) (r : RingContext) : (s.setRing c r).epoch = s.epoch := rfl
@[simp] theorem engine_setRing (s : State) (c : ClientId) (r : RingContext) : (s.setRing c r).engine = s.engine := rfl
@[simp] theorem haltCause_setRing (s : State) (c : ClientId) (r : RingContext) : (s.setRing c r).haltCause = s.haltCause := rfl
@[simp] theorem startRefusal_setRing (s : State) (c : ClientId) (r : RingContext) : (s.setRing c r).startRefusal = s.startRefusal := rfl
@[simp] theorem regs_setRing (s : State) (c : ClientId) (r : RingContext) : (s.setRing c r).regs = s.regs := rfl
@[simp] theorem capture_setRing (s : State) (c : ClientId) (r : RingContext) : (s.setRing c r).capture = s.capture := rfl
@[simp] theorem table_setRing (s : State) (c : ClientId) (r : RingContext) : (s.setRing c r).table = s.table := rfl
@[simp] theorem freeEntries_setRing (s : State) (c : ClientId) (r : RingContext) : (s.setRing c r).freeEntries = s.freeEntries := rfl
@[simp] theorem nextToken_setRing (s : State) (c : ClientId) (r : RingContext) : (s.setRing c r).nextToken = s.nextToken := rfl
@[simp] theorem poolFree_setRing (s : State) (c : ClientId) (r : RingContext) : (s.setRing c r).poolFree = s.poolFree := rfl
@[simp] theorem accounts_setRing (s : State) (c : ClientId) (r : RingContext) : (s.setRing c r).accounts = s.accounts := rfl
@[simp] theorem clock_setRing (s : State) (c : ClientId) (r : RingContext) : (s.setRing c r).clock = s.clock := rfl
@[simp] theorem standings_setRing (s : State) (c : ClientId) (r : RingContext) : (s.setRing c r).standings = s.standings := rfl
@[simp] theorem limits_setRing (s : State) (c : ClientId) (r : RingContext) : (s.setRing c r).limits = s.limits := rfl
@[simp] theorem standingQueue_setRing (s : State) (c : ClientId) (r : RingContext) : (s.setRing c r).standingQueue = s.standingQueue := rfl
@[simp] theorem watches_setRing (s : State) (c : ClientId) (r : RingContext) : (s.setRing c r).watches = s.watches := rfl
@[simp] theorem watchEvents_setRing (s : State) (c : ClientId) (r : RingContext) : (s.setRing c r).watchEvents = s.watchEvents := rfl
@[simp] theorem clients_setRing (s : State) (c : ClientId) (r : RingContext) : (s.setRing c r).clients = s.clients := rfl
@[simp] theorem roundRobin_setRing (s : State) (c : ClientId) (r : RingContext) : (s.setRing c r).roundRobin = s.roundRobin := rfl
@[simp] theorem linkOut_setRing (s : State) (c : ClientId) (r : RingContext) : (s.setRing c r).linkOut = s.linkOut := rfl
@[simp] theorem client_setRing (s : State) (c : ClientId) (r : RingContext) (d : ClientId) : (s.setRing c r).client d = s.client d := rfl
@[simp] theorem standing_setRing (s : State) (c : ClientId) (r : RingContext) (d : ClientId) : (s.setRing c r).standing d = s.standing d := rfl
@[simp] theorem account_setRing (s : State) (c : ClientId) (r : RingContext) (d : ClientId) : (s.setRing c r).account d = s.account d := rfl
@[simp] theorem recovery_setRing (s : State) (c : ClientId) (r : RingContext) (d : ClientId) : (s.setRing c r).recovery d = s.recovery d := rfl
@[simp] theorem lookup_setRing (s : State) (c : ClientId) (r : RingContext) (nm : Name) : (s.setRing c r).entry? nm = s.entry? nm := rfl

@[simp] theorem pending_setClient (s : State) (c : ClientId) (r : ClientRecord) : (s.setClient c r).pending = s.pending := rfl
@[simp] theorem epoch_setClient (s : State) (c : ClientId) (r : ClientRecord) : (s.setClient c r).epoch = s.epoch := rfl
@[simp] theorem engine_setClient (s : State) (c : ClientId) (r : ClientRecord) : (s.setClient c r).engine = s.engine := rfl
@[simp] theorem haltCause_setClient (s : State) (c : ClientId) (r : ClientRecord) : (s.setClient c r).haltCause = s.haltCause := rfl
@[simp] theorem startRefusal_setClient (s : State) (c : ClientId) (r : ClientRecord) : (s.setClient c r).startRefusal = s.startRefusal := rfl
@[simp] theorem regs_setClient (s : State) (c : ClientId) (r : ClientRecord) : (s.setClient c r).regs = s.regs := rfl
@[simp] theorem capture_setClient (s : State) (c : ClientId) (r : ClientRecord) : (s.setClient c r).capture = s.capture := rfl
@[simp] theorem table_setClient (s : State) (c : ClientId) (r : ClientRecord) : (s.setClient c r).table = s.table := rfl
@[simp] theorem freeEntries_setClient (s : State) (c : ClientId) (r : ClientRecord) : (s.setClient c r).freeEntries = s.freeEntries := rfl
@[simp] theorem nextToken_setClient (s : State) (c : ClientId) (r : ClientRecord) : (s.setClient c r).nextToken = s.nextToken := rfl
@[simp] theorem poolFree_setClient (s : State) (c : ClientId) (r : ClientRecord) : (s.setClient c r).poolFree = s.poolFree := rfl
@[simp] theorem accounts_setClient (s : State) (c : ClientId) (r : ClientRecord) : (s.setClient c r).accounts = s.accounts := rfl
@[simp] theorem clock_setClient (s : State) (c : ClientId) (r : ClientRecord) : (s.setClient c r).clock = s.clock := rfl
@[simp] theorem standings_setClient (s : State) (c : ClientId) (r : ClientRecord) : (s.setClient c r).standings = s.standings := rfl
@[simp] theorem limits_setClient (s : State) (c : ClientId) (r : ClientRecord) : (s.setClient c r).limits = s.limits := rfl
@[simp] theorem standingQueue_setClient (s : State) (c : ClientId) (r : ClientRecord) : (s.setClient c r).standingQueue = s.standingQueue := rfl
@[simp] theorem watches_setClient (s : State) (c : ClientId) (r : ClientRecord) : (s.setClient c r).watches = s.watches := rfl
@[simp] theorem watchEvents_setClient (s : State) (c : ClientId) (r : ClientRecord) : (s.setClient c r).watchEvents = s.watchEvents := rfl
@[simp] theorem rings_setClient (s : State) (c : ClientId) (r : ClientRecord) : (s.setClient c r).rings = s.rings := rfl
@[simp] theorem roundRobin_setClient (s : State) (c : ClientId) (r : ClientRecord) : (s.setClient c r).roundRobin = s.roundRobin := rfl
@[simp] theorem linkOut_setClient (s : State) (c : ClientId) (r : ClientRecord) : (s.setClient c r).linkOut = s.linkOut := rfl
@[simp] theorem ring_setClient (s : State) (c : ClientId) (r : ClientRecord) (d : ClientId) : (s.setClient c r).ring d = s.ring d := rfl
@[simp] theorem standing_setClient (s : State) (c : ClientId) (r : ClientRecord) (d : ClientId) : (s.setClient c r).standing d = s.standing d := rfl
@[simp] theorem account_setClient (s : State) (c : ClientId) (r : ClientRecord) (d : ClientId) : (s.setClient c r).account d = s.account d := rfl
@[simp] theorem recovery_setClient (s : State) (c : ClientId) (r : ClientRecord) (d : ClientId) : (s.setClient c r).recovery d = s.recovery d := rfl
@[simp] theorem lookup_setClient (s : State) (c : ClientId) (r : ClientRecord) (nm : Name) : (s.setClient c r).entry? nm = s.entry? nm := rfl

@[simp] theorem pending_setStanding (s : State) (c : ClientId) (r : Standing) : (s.setStanding c r).pending = s.pending := rfl
@[simp] theorem epoch_setStanding (s : State) (c : ClientId) (r : Standing) : (s.setStanding c r).epoch = s.epoch := rfl
@[simp] theorem engine_setStanding (s : State) (c : ClientId) (r : Standing) : (s.setStanding c r).engine = s.engine := rfl
@[simp] theorem haltCause_setStanding (s : State) (c : ClientId) (r : Standing) : (s.setStanding c r).haltCause = s.haltCause := rfl
@[simp] theorem startRefusal_setStanding (s : State) (c : ClientId) (r : Standing) : (s.setStanding c r).startRefusal = s.startRefusal := rfl
@[simp] theorem regs_setStanding (s : State) (c : ClientId) (r : Standing) : (s.setStanding c r).regs = s.regs := rfl
@[simp] theorem capture_setStanding (s : State) (c : ClientId) (r : Standing) : (s.setStanding c r).capture = s.capture := rfl
@[simp] theorem table_setStanding (s : State) (c : ClientId) (r : Standing) : (s.setStanding c r).table = s.table := rfl
@[simp] theorem freeEntries_setStanding (s : State) (c : ClientId) (r : Standing) : (s.setStanding c r).freeEntries = s.freeEntries := rfl
@[simp] theorem nextToken_setStanding (s : State) (c : ClientId) (r : Standing) : (s.setStanding c r).nextToken = s.nextToken := rfl
@[simp] theorem poolFree_setStanding (s : State) (c : ClientId) (r : Standing) : (s.setStanding c r).poolFree = s.poolFree := rfl
@[simp] theorem accounts_setStanding (s : State) (c : ClientId) (r : Standing) : (s.setStanding c r).accounts = s.accounts := rfl
@[simp] theorem clock_setStanding (s : State) (c : ClientId) (r : Standing) : (s.setStanding c r).clock = s.clock := rfl
@[simp] theorem limits_setStanding (s : State) (c : ClientId) (r : Standing) : (s.setStanding c r).limits = s.limits := rfl
@[simp] theorem standingQueue_setStanding (s : State) (c : ClientId) (r : Standing) : (s.setStanding c r).standingQueue = s.standingQueue := rfl
@[simp] theorem watches_setStanding (s : State) (c : ClientId) (r : Standing) : (s.setStanding c r).watches = s.watches := rfl
@[simp] theorem watchEvents_setStanding (s : State) (c : ClientId) (r : Standing) : (s.setStanding c r).watchEvents = s.watchEvents := rfl
@[simp] theorem clients_setStanding (s : State) (c : ClientId) (r : Standing) : (s.setStanding c r).clients = s.clients := rfl
@[simp] theorem rings_setStanding (s : State) (c : ClientId) (r : Standing) : (s.setStanding c r).rings = s.rings := rfl
@[simp] theorem roundRobin_setStanding (s : State) (c : ClientId) (r : Standing) : (s.setStanding c r).roundRobin = s.roundRobin := rfl
@[simp] theorem linkOut_setStanding (s : State) (c : ClientId) (r : Standing) : (s.setStanding c r).linkOut = s.linkOut := rfl
@[simp] theorem ring_setStanding (s : State) (c : ClientId) (r : Standing) (d : ClientId) : (s.setStanding c r).ring d = s.ring d := rfl
@[simp] theorem client_setStanding (s : State) (c : ClientId) (r : Standing) (d : ClientId) : (s.setStanding c r).client d = s.client d := rfl
@[simp] theorem account_setStanding (s : State) (c : ClientId) (r : Standing) (d : ClientId) : (s.setStanding c r).account d = s.account d := rfl
@[simp] theorem recovery_setStanding (s : State) (c : ClientId) (r : Standing) (d : ClientId) : (s.setStanding c r).recovery d = s.recovery d := rfl
@[simp] theorem lookup_setStanding (s : State) (c : ClientId) (r : Standing) (nm : Name) : (s.setStanding c r).entry? nm = s.entry? nm := rfl

@[simp] theorem pending_setAccount (s : State) (c : ClientId) (a : Account) : (s.setAccount c a).pending = s.pending := rfl
@[simp] theorem epoch_setAccount (s : State) (c : ClientId) (a : Account) : (s.setAccount c a).epoch = s.epoch := rfl
@[simp] theorem engine_setAccount (s : State) (c : ClientId) (a : Account) : (s.setAccount c a).engine = s.engine := rfl
@[simp] theorem haltCause_setAccount (s : State) (c : ClientId) (a : Account) : (s.setAccount c a).haltCause = s.haltCause := rfl
@[simp] theorem startRefusal_setAccount (s : State) (c : ClientId) (a : Account) : (s.setAccount c a).startRefusal = s.startRefusal := rfl
@[simp] theorem regs_setAccount (s : State) (c : ClientId) (a : Account) : (s.setAccount c a).regs = s.regs := rfl
@[simp] theorem capture_setAccount (s : State) (c : ClientId) (a : Account) : (s.setAccount c a).capture = s.capture := rfl
@[simp] theorem table_setAccount (s : State) (c : ClientId) (a : Account) : (s.setAccount c a).table = s.table := rfl
@[simp] theorem freeEntries_setAccount (s : State) (c : ClientId) (a : Account) : (s.setAccount c a).freeEntries = s.freeEntries := rfl
@[simp] theorem nextToken_setAccount (s : State) (c : ClientId) (a : Account) : (s.setAccount c a).nextToken = s.nextToken := rfl
@[simp] theorem poolFree_setAccount (s : State) (c : ClientId) (a : Account) : (s.setAccount c a).poolFree = s.poolFree := rfl
@[simp] theorem clock_setAccount (s : State) (c : ClientId) (a : Account) : (s.setAccount c a).clock = s.clock := rfl
@[simp] theorem standings_setAccount (s : State) (c : ClientId) (a : Account) : (s.setAccount c a).standings = s.standings := rfl
@[simp] theorem limits_setAccount (s : State) (c : ClientId) (a : Account) : (s.setAccount c a).limits = s.limits := rfl
@[simp] theorem standingQueue_setAccount (s : State) (c : ClientId) (a : Account) : (s.setAccount c a).standingQueue = s.standingQueue := rfl
@[simp] theorem watches_setAccount (s : State) (c : ClientId) (a : Account) : (s.setAccount c a).watches = s.watches := rfl
@[simp] theorem watchEvents_setAccount (s : State) (c : ClientId) (a : Account) : (s.setAccount c a).watchEvents = s.watchEvents := rfl
@[simp] theorem clients_setAccount (s : State) (c : ClientId) (a : Account) : (s.setAccount c a).clients = s.clients := rfl
@[simp] theorem rings_setAccount (s : State) (c : ClientId) (a : Account) : (s.setAccount c a).rings = s.rings := rfl
@[simp] theorem roundRobin_setAccount (s : State) (c : ClientId) (a : Account) : (s.setAccount c a).roundRobin = s.roundRobin := rfl
@[simp] theorem linkOut_setAccount (s : State) (c : ClientId) (a : Account) : (s.setAccount c a).linkOut = s.linkOut := rfl
@[simp] theorem ring_setAccount (s : State) (c : ClientId) (a : Account) (d : ClientId) : (s.setAccount c a).ring d = s.ring d := rfl
@[simp] theorem client_setAccount (s : State) (c : ClientId) (a : Account) (d : ClientId) : (s.setAccount c a).client d = s.client d := rfl
@[simp] theorem standing_setAccount (s : State) (c : ClientId) (a : Account) (d : ClientId) : (s.setAccount c a).standing d = s.standing d := rfl
@[simp] theorem recovery_setAccount (s : State) (c : ClientId) (a : Account) (d : ClientId) : (s.setAccount c a).recovery d = s.recovery d := rfl
@[simp] theorem lookup_setAccount (s : State) (c : ClientId) (a : Account) (nm : Name) : (s.setAccount c a).entry? nm = s.entry? nm := rfl

@[simp] theorem pending_setRecovery (s : State) (c : ClientId) (n : Nat) : (s.setRecovery c n).pending = s.pending := rfl
@[simp] theorem epoch_setRecovery (s : State) (c : ClientId) (n : Nat) : (s.setRecovery c n).epoch = s.epoch := rfl
@[simp] theorem engine_setRecovery (s : State) (c : ClientId) (n : Nat) : (s.setRecovery c n).engine = s.engine := rfl
@[simp] theorem haltCause_setRecovery (s : State) (c : ClientId) (n : Nat) : (s.setRecovery c n).haltCause = s.haltCause := rfl
@[simp] theorem startRefusal_setRecovery (s : State) (c : ClientId) (n : Nat) : (s.setRecovery c n).startRefusal = s.startRefusal := rfl
@[simp] theorem regs_setRecovery (s : State) (c : ClientId) (n : Nat) : (s.setRecovery c n).regs = s.regs := rfl
@[simp] theorem capture_setRecovery (s : State) (c : ClientId) (n : Nat) : (s.setRecovery c n).capture = s.capture := rfl
@[simp] theorem table_setRecovery (s : State) (c : ClientId) (n : Nat) : (s.setRecovery c n).table = s.table := rfl
@[simp] theorem freeEntries_setRecovery (s : State) (c : ClientId) (n : Nat) : (s.setRecovery c n).freeEntries = s.freeEntries := rfl
@[simp] theorem nextToken_setRecovery (s : State) (c : ClientId) (n : Nat) : (s.setRecovery c n).nextToken = s.nextToken := rfl
@[simp] theorem poolFree_setRecovery (s : State) (c : ClientId) (n : Nat) : (s.setRecovery c n).poolFree = s.poolFree := rfl
@[simp] theorem accounts_setRecovery (s : State) (c : ClientId) (n : Nat) : (s.setRecovery c n).accounts = s.accounts := rfl
@[simp] theorem standings_setRecovery (s : State) (c : ClientId) (n : Nat) : (s.setRecovery c n).standings = s.standings := rfl
@[simp] theorem limits_setRecovery (s : State) (c : ClientId) (n : Nat) : (s.setRecovery c n).limits = s.limits := rfl
@[simp] theorem standingQueue_setRecovery (s : State) (c : ClientId) (n : Nat) : (s.setRecovery c n).standingQueue = s.standingQueue := rfl
@[simp] theorem watches_setRecovery (s : State) (c : ClientId) (n : Nat) : (s.setRecovery c n).watches = s.watches := rfl
@[simp] theorem watchEvents_setRecovery (s : State) (c : ClientId) (n : Nat) : (s.setRecovery c n).watchEvents = s.watchEvents := rfl
@[simp] theorem clients_setRecovery (s : State) (c : ClientId) (n : Nat) : (s.setRecovery c n).clients = s.clients := rfl
@[simp] theorem rings_setRecovery (s : State) (c : ClientId) (n : Nat) : (s.setRecovery c n).rings = s.rings := rfl
@[simp] theorem roundRobin_setRecovery (s : State) (c : ClientId) (n : Nat) : (s.setRecovery c n).roundRobin = s.roundRobin := rfl
@[simp] theorem linkOut_setRecovery (s : State) (c : ClientId) (n : Nat) : (s.setRecovery c n).linkOut = s.linkOut := rfl
@[simp] theorem ring_setRecovery (s : State) (c : ClientId) (n : Nat) (d : ClientId) : (s.setRecovery c n).ring d = s.ring d := rfl
@[simp] theorem client_setRecovery (s : State) (c : ClientId) (n : Nat) (d : ClientId) : (s.setRecovery c n).client d = s.client d := rfl
@[simp] theorem standing_setRecovery (s : State) (c : ClientId) (n : Nat) (d : ClientId) : (s.setRecovery c n).standing d = s.standing d := rfl
@[simp] theorem account_setRecovery (s : State) (c : ClientId) (n : Nat) (d : ClientId) : (s.setRecovery c n).account d = s.account d := rfl
@[simp] theorem lookup_setRecovery (s : State) (c : ClientId) (n : Nat) (nm : Name) : (s.setRecovery c n).entry? nm = s.entry? nm := rfl

@[simp] theorem pending_quiet (s : State) : (s.quiet).pending = s.pending := rfl
@[simp] theorem epoch_quiet (s : State) : (s.quiet).epoch = s.epoch := rfl
@[simp] theorem engine_quiet (s : State) : (s.quiet).engine = s.engine := rfl
@[simp] theorem haltCause_quiet (s : State) : (s.quiet).haltCause = s.haltCause := rfl
@[simp] theorem startRefusal_quiet (s : State) : (s.quiet).startRefusal = s.startRefusal := rfl
@[simp] theorem regs_quiet (s : State) : (s.quiet).regs = s.regs := rfl
@[simp] theorem capture_quiet (s : State) : (s.quiet).capture = s.capture := rfl
@[simp] theorem table_quiet (s : State) : (s.quiet).table = s.table := rfl
@[simp] theorem freeEntries_quiet (s : State) : (s.quiet).freeEntries = s.freeEntries := rfl
@[simp] theorem nextToken_quiet (s : State) : (s.quiet).nextToken = s.nextToken := rfl
@[simp] theorem poolFree_quiet (s : State) : (s.quiet).poolFree = s.poolFree := rfl
@[simp] theorem accounts_quiet (s : State) : (s.quiet).accounts = s.accounts := rfl
@[simp] theorem clock_quiet (s : State) : (s.quiet).clock = s.clock := rfl
@[simp] theorem standings_quiet (s : State) : (s.quiet).standings = s.standings := rfl
@[simp] theorem limits_quiet (s : State) : (s.quiet).limits = s.limits := rfl
@[simp] theorem standingQueue_quiet (s : State) : (s.quiet).standingQueue = s.standingQueue := rfl
@[simp] theorem watches_quiet (s : State) : (s.quiet).watches = s.watches := rfl
@[simp] theorem watchEvents_quiet (s : State) : (s.quiet).watchEvents = s.watchEvents := rfl
@[simp] theorem clients_quiet (s : State) : (s.quiet).clients = s.clients := rfl
@[simp] theorem rings_quiet (s : State) : (s.quiet).rings = s.rings := rfl
@[simp] theorem roundRobin_quiet (s : State) : (s.quiet).roundRobin = s.roundRobin := rfl
@[simp] theorem ring_quiet (s : State) (d : ClientId) : (s.quiet).ring d = s.ring d := rfl
@[simp] theorem client_quiet (s : State) (d : ClientId) : (s.quiet).client d = s.client d := rfl
@[simp] theorem standing_quiet (s : State) (d : ClientId) : (s.quiet).standing d = s.standing d := rfl
@[simp] theorem account_quiet (s : State) (d : ClientId) : (s.quiet).account d = s.account d := rfl
@[simp] theorem recovery_quiet (s : State) (d : ClientId) : (s.quiet).recovery d = s.recovery d := rfl
@[simp] theorem lookup_quiet (s : State) (nm : Name) : (s.quiet).entry? nm = s.entry? nm := rfl

@[simp] theorem pending_put (s : State) (o : LinkOutput) : (s.put o).pending = s.pending := rfl
@[simp] theorem epoch_put (s : State) (o : LinkOutput) : (s.put o).epoch = s.epoch := rfl
@[simp] theorem engine_put (s : State) (o : LinkOutput) : (s.put o).engine = s.engine := rfl
@[simp] theorem haltCause_put (s : State) (o : LinkOutput) : (s.put o).haltCause = s.haltCause := rfl
@[simp] theorem startRefusal_put (s : State) (o : LinkOutput) : (s.put o).startRefusal = s.startRefusal := rfl
@[simp] theorem regs_put (s : State) (o : LinkOutput) : (s.put o).regs = s.regs := rfl
@[simp] theorem capture_put (s : State) (o : LinkOutput) : (s.put o).capture = s.capture := rfl
@[simp] theorem table_put (s : State) (o : LinkOutput) : (s.put o).table = s.table := rfl
@[simp] theorem freeEntries_put (s : State) (o : LinkOutput) : (s.put o).freeEntries = s.freeEntries := rfl
@[simp] theorem nextToken_put (s : State) (o : LinkOutput) : (s.put o).nextToken = s.nextToken := rfl
@[simp] theorem poolFree_put (s : State) (o : LinkOutput) : (s.put o).poolFree = s.poolFree := rfl
@[simp] theorem accounts_put (s : State) (o : LinkOutput) : (s.put o).accounts = s.accounts := rfl
@[simp] theorem clock_put (s : State) (o : LinkOutput) : (s.put o).clock = s.clock := rfl
@[simp] theorem standings_put (s : State) (o : LinkOutput) : (s.put o).standings = s.standings := rfl
@[simp] theorem limits_put (s : State) (o : LinkOutput) : (s.put o).limits = s.limits := rfl
@[simp] theorem standingQueue_put (s : State) (o : LinkOutput) : (s.put o).standingQueue = s.standingQueue := rfl
@[simp] theorem watches_put (s : State) (o : LinkOutput) : (s.put o).watches = s.watches := rfl
@[simp] theorem watchEvents_put (s : State) (o : LinkOutput) : (s.put o).watchEvents = s.watchEvents := rfl
@[simp] theorem clients_put (s : State) (o : LinkOutput) : (s.put o).clients = s.clients := rfl
@[simp] theorem rings_put (s : State) (o : LinkOutput) : (s.put o).rings = s.rings := rfl
@[simp] theorem roundRobin_put (s : State) (o : LinkOutput) : (s.put o).roundRobin = s.roundRobin := rfl
@[simp] theorem ring_put (s : State) (o : LinkOutput) (d : ClientId) : (s.put o).ring d = s.ring d := rfl
@[simp] theorem client_put (s : State) (o : LinkOutput) (d : ClientId) : (s.put o).client d = s.client d := rfl
@[simp] theorem standing_put (s : State) (o : LinkOutput) (d : ClientId) : (s.put o).standing d = s.standing d := rfl
@[simp] theorem account_put (s : State) (o : LinkOutput) (d : ClientId) : (s.put o).account d = s.account d := rfl
@[simp] theorem recovery_put (s : State) (o : LinkOutput) (d : ClientId) : (s.put o).recovery d = s.recovery d := rfl
@[simp] theorem lookup_put (s : State) (o : LinkOutput) (nm : Name) : (s.put o).entry? nm = s.entry? nm := rfl

@[simp] theorem pending_handCharge (s : State) (c : ClientId) (n : Nat) : (s.handCharge c n).pending = s.pending := rfl
@[simp] theorem epoch_handCharge (s : State) (c : ClientId) (n : Nat) : (s.handCharge c n).epoch = s.epoch := rfl
@[simp] theorem engine_handCharge (s : State) (c : ClientId) (n : Nat) : (s.handCharge c n).engine = s.engine := rfl
@[simp] theorem haltCause_handCharge (s : State) (c : ClientId) (n : Nat) : (s.handCharge c n).haltCause = s.haltCause := rfl
@[simp] theorem startRefusal_handCharge (s : State) (c : ClientId) (n : Nat) : (s.handCharge c n).startRefusal = s.startRefusal := rfl
@[simp] theorem regs_handCharge (s : State) (c : ClientId) (n : Nat) : (s.handCharge c n).regs = s.regs := rfl
@[simp] theorem capture_handCharge (s : State) (c : ClientId) (n : Nat) : (s.handCharge c n).capture = s.capture := rfl
@[simp] theorem table_handCharge (s : State) (c : ClientId) (n : Nat) : (s.handCharge c n).table = s.table := rfl
@[simp] theorem freeEntries_handCharge (s : State) (c : ClientId) (n : Nat) : (s.handCharge c n).freeEntries = s.freeEntries := rfl
@[simp] theorem nextToken_handCharge (s : State) (c : ClientId) (n : Nat) : (s.handCharge c n).nextToken = s.nextToken := rfl
@[simp] theorem poolFree_handCharge (s : State) (c : ClientId) (n : Nat) : (s.handCharge c n).poolFree = s.poolFree := rfl
@[simp] theorem accounts_handCharge (s : State) (c : ClientId) (n : Nat) : (s.handCharge c n).accounts = s.accounts := rfl
@[simp] theorem clock_handCharge (s : State) (c : ClientId) (n : Nat) : (s.handCharge c n).clock = s.clock := rfl
@[simp] theorem standings_handCharge (s : State) (c : ClientId) (n : Nat) : (s.handCharge c n).standings = s.standings := rfl
@[simp] theorem limits_handCharge (s : State) (c : ClientId) (n : Nat) : (s.handCharge c n).limits = s.limits := rfl
@[simp] theorem watches_handCharge (s : State) (c : ClientId) (n : Nat) : (s.handCharge c n).watches = s.watches := rfl
@[simp] theorem watchEvents_handCharge (s : State) (c : ClientId) (n : Nat) : (s.handCharge c n).watchEvents = s.watchEvents := rfl
@[simp] theorem clients_handCharge (s : State) (c : ClientId) (n : Nat) : (s.handCharge c n).clients = s.clients := rfl
@[simp] theorem rings_handCharge (s : State) (c : ClientId) (n : Nat) : (s.handCharge c n).rings = s.rings := rfl
@[simp] theorem roundRobin_handCharge (s : State) (c : ClientId) (n : Nat) : (s.handCharge c n).roundRobin = s.roundRobin := rfl
@[simp] theorem linkOut_handCharge (s : State) (c : ClientId) (n : Nat) : (s.handCharge c n).linkOut = s.linkOut := rfl
@[simp] theorem ring_handCharge (s : State) (c : ClientId) (n : Nat) (d : ClientId) : (s.handCharge c n).ring d = s.ring d := rfl
@[simp] theorem client_handCharge (s : State) (c : ClientId) (n : Nat) (d : ClientId) : (s.handCharge c n).client d = s.client d := rfl
@[simp] theorem standing_handCharge (s : State) (c : ClientId) (n : Nat) (d : ClientId) : (s.handCharge c n).standing d = s.standing d := rfl
@[simp] theorem account_handCharge (s : State) (c : ClientId) (n : Nat) (d : ClientId) : (s.handCharge c n).account d = s.account d := rfl
@[simp] theorem recovery_handCharge (s : State) (c : ClientId) (n : Nat) (d : ClientId) : (s.handCharge c n).recovery d = s.recovery d := rfl
@[simp] theorem lookup_handCharge (s : State) (c : ClientId) (n : Nat) (nm : Name) : (s.handCharge c n).entry? nm = s.entry? nm := rfl

@[simp] theorem pending_handCredit (s : State) (c : ClientId) : (s.handCredit c).pending = s.pending := rfl
@[simp] theorem epoch_handCredit (s : State) (c : ClientId) : (s.handCredit c).epoch = s.epoch := rfl
@[simp] theorem engine_handCredit (s : State) (c : ClientId) : (s.handCredit c).engine = s.engine := rfl
@[simp] theorem haltCause_handCredit (s : State) (c : ClientId) : (s.handCredit c).haltCause = s.haltCause := rfl
@[simp] theorem startRefusal_handCredit (s : State) (c : ClientId) : (s.handCredit c).startRefusal = s.startRefusal := rfl
@[simp] theorem regs_handCredit (s : State) (c : ClientId) : (s.handCredit c).regs = s.regs := rfl
@[simp] theorem capture_handCredit (s : State) (c : ClientId) : (s.handCredit c).capture = s.capture := rfl
@[simp] theorem table_handCredit (s : State) (c : ClientId) : (s.handCredit c).table = s.table := rfl
@[simp] theorem freeEntries_handCredit (s : State) (c : ClientId) : (s.handCredit c).freeEntries = s.freeEntries := rfl
@[simp] theorem nextToken_handCredit (s : State) (c : ClientId) : (s.handCredit c).nextToken = s.nextToken := rfl
@[simp] theorem poolFree_handCredit (s : State) (c : ClientId) : (s.handCredit c).poolFree = s.poolFree := rfl
@[simp] theorem accounts_handCredit (s : State) (c : ClientId) : (s.handCredit c).accounts = s.accounts := rfl
@[simp] theorem clock_handCredit (s : State) (c : ClientId) : (s.handCredit c).clock = s.clock := rfl
@[simp] theorem standings_handCredit (s : State) (c : ClientId) : (s.handCredit c).standings = s.standings := rfl
@[simp] theorem limits_handCredit (s : State) (c : ClientId) : (s.handCredit c).limits = s.limits := rfl
@[simp] theorem watches_handCredit (s : State) (c : ClientId) : (s.handCredit c).watches = s.watches := rfl
@[simp] theorem watchEvents_handCredit (s : State) (c : ClientId) : (s.handCredit c).watchEvents = s.watchEvents := rfl
@[simp] theorem clients_handCredit (s : State) (c : ClientId) : (s.handCredit c).clients = s.clients := rfl
@[simp] theorem rings_handCredit (s : State) (c : ClientId) : (s.handCredit c).rings = s.rings := rfl
@[simp] theorem roundRobin_handCredit (s : State) (c : ClientId) : (s.handCredit c).roundRobin = s.roundRobin := rfl
@[simp] theorem linkOut_handCredit (s : State) (c : ClientId) : (s.handCredit c).linkOut = s.linkOut := rfl
@[simp] theorem ring_handCredit (s : State) (c : ClientId) (d : ClientId) : (s.handCredit c).ring d = s.ring d := rfl
@[simp] theorem client_handCredit (s : State) (c : ClientId) (d : ClientId) : (s.handCredit c).client d = s.client d := rfl
@[simp] theorem standing_handCredit (s : State) (c : ClientId) (d : ClientId) : (s.handCredit c).standing d = s.standing d := rfl
@[simp] theorem account_handCredit (s : State) (c : ClientId) (d : ClientId) : (s.handCredit c).account d = s.account d := rfl
@[simp] theorem recovery_handCredit (s : State) (c : ClientId) (d : ClientId) : (s.handCredit c).recovery d = s.recovery d := rfl
@[simp] theorem lookup_handCredit (s : State) (c : ClientId) (nm : Name) : (s.handCredit c).entry? nm = s.entry? nm := rfl

@[simp] theorem pending_forgetClient (s : State) (c : ClientId) : (s.forgetClient c).pending = s.pending := rfl
@[simp] theorem epoch_forgetClient (s : State) (c : ClientId) : (s.forgetClient c).epoch = s.epoch := rfl
@[simp] theorem engine_forgetClient (s : State) (c : ClientId) : (s.forgetClient c).engine = s.engine := rfl
@[simp] theorem haltCause_forgetClient (s : State) (c : ClientId) : (s.forgetClient c).haltCause = s.haltCause := rfl
@[simp] theorem startRefusal_forgetClient (s : State) (c : ClientId) : (s.forgetClient c).startRefusal = s.startRefusal := rfl
@[simp] theorem regs_forgetClient (s : State) (c : ClientId) : (s.forgetClient c).regs = s.regs := rfl
@[simp] theorem capture_forgetClient (s : State) (c : ClientId) : (s.forgetClient c).capture = s.capture := rfl
@[simp] theorem table_forgetClient (s : State) (c : ClientId) : (s.forgetClient c).table = s.table := rfl
@[simp] theorem freeEntries_forgetClient (s : State) (c : ClientId) : (s.forgetClient c).freeEntries = s.freeEntries := rfl
@[simp] theorem nextToken_forgetClient (s : State) (c : ClientId) : (s.forgetClient c).nextToken = s.nextToken := rfl
@[simp] theorem poolFree_forgetClient (s : State) (c : ClientId) : (s.forgetClient c).poolFree = s.poolFree := rfl
@[simp] theorem accounts_forgetClient (s : State) (c : ClientId) : (s.forgetClient c).accounts = s.accounts := rfl
@[simp] theorem standings_forgetClient (s : State) (c : ClientId) : (s.forgetClient c).standings = s.standings := rfl
@[simp] theorem limits_forgetClient (s : State) (c : ClientId) : (s.forgetClient c).limits = s.limits := rfl
@[simp] theorem standingQueue_forgetClient (s : State) (c : ClientId) : (s.forgetClient c).standingQueue = s.standingQueue := rfl
@[simp] theorem watches_forgetClient (s : State) (c : ClientId) : (s.forgetClient c).watches = s.watches := rfl
@[simp] theorem watchEvents_forgetClient (s : State) (c : ClientId) : (s.forgetClient c).watchEvents = s.watchEvents := rfl
@[simp] theorem clients_forgetClient (s : State) (c : ClientId) : (s.forgetClient c).clients = s.clients := rfl
@[simp] theorem rings_forgetClient (s : State) (c : ClientId) : (s.forgetClient c).rings = s.rings := rfl
@[simp] theorem roundRobin_forgetClient (s : State) (c : ClientId) : (s.forgetClient c).roundRobin = s.roundRobin := rfl
@[simp] theorem linkOut_forgetClient (s : State) (c : ClientId) : (s.forgetClient c).linkOut = s.linkOut := rfl
@[simp] theorem ring_forgetClient (s : State) (c : ClientId) (d : ClientId) : (s.forgetClient c).ring d = s.ring d := rfl
@[simp] theorem client_forgetClient (s : State) (c : ClientId) (d : ClientId) : (s.forgetClient c).client d = s.client d := rfl
@[simp] theorem standing_forgetClient (s : State) (c : ClientId) (d : ClientId) : (s.forgetClient c).standing d = s.standing d := rfl
@[simp] theorem account_forgetClient (s : State) (c : ClientId) (d : ClientId) : (s.forgetClient c).account d = s.account d := rfl
@[simp] theorem lookup_forgetClient (s : State) (c : ClientId) (nm : Name) : (s.forgetClient c).entry? nm = s.entry? nm := rfl

@[simp] theorem pending_forgetEntry (s : State) (n : Name) : (s.forgetEntry n).pending = s.pending := rfl
@[simp] theorem epoch_forgetEntry (s : State) (n : Name) : (s.forgetEntry n).epoch = s.epoch := rfl
@[simp] theorem engine_forgetEntry (s : State) (n : Name) : (s.forgetEntry n).engine = s.engine := rfl
@[simp] theorem haltCause_forgetEntry (s : State) (n : Name) : (s.forgetEntry n).haltCause = s.haltCause := rfl
@[simp] theorem startRefusal_forgetEntry (s : State) (n : Name) : (s.forgetEntry n).startRefusal = s.startRefusal := rfl
@[simp] theorem regs_forgetEntry (s : State) (n : Name) : (s.forgetEntry n).regs = s.regs := rfl
@[simp] theorem capture_forgetEntry (s : State) (n : Name) : (s.forgetEntry n).capture = s.capture := rfl
@[simp] theorem table_forgetEntry (s : State) (n : Name) : (s.forgetEntry n).table = s.table := rfl
@[simp] theorem freeEntries_forgetEntry (s : State) (n : Name) : (s.forgetEntry n).freeEntries = s.freeEntries := rfl
@[simp] theorem nextToken_forgetEntry (s : State) (n : Name) : (s.forgetEntry n).nextToken = s.nextToken := rfl
@[simp] theorem poolFree_forgetEntry (s : State) (n : Name) : (s.forgetEntry n).poolFree = s.poolFree := rfl
@[simp] theorem accounts_forgetEntry (s : State) (n : Name) : (s.forgetEntry n).accounts = s.accounts := rfl
@[simp] theorem standings_forgetEntry (s : State) (n : Name) : (s.forgetEntry n).standings = s.standings := rfl
@[simp] theorem limits_forgetEntry (s : State) (n : Name) : (s.forgetEntry n).limits = s.limits := rfl
@[simp] theorem standingQueue_forgetEntry (s : State) (n : Name) : (s.forgetEntry n).standingQueue = s.standingQueue := rfl
@[simp] theorem watches_forgetEntry (s : State) (n : Name) : (s.forgetEntry n).watches = s.watches := rfl
@[simp] theorem watchEvents_forgetEntry (s : State) (n : Name) : (s.forgetEntry n).watchEvents = s.watchEvents := rfl
@[simp] theorem clients_forgetEntry (s : State) (n : Name) : (s.forgetEntry n).clients = s.clients := rfl
@[simp] theorem rings_forgetEntry (s : State) (n : Name) : (s.forgetEntry n).rings = s.rings := rfl
@[simp] theorem roundRobin_forgetEntry (s : State) (n : Name) : (s.forgetEntry n).roundRobin = s.roundRobin := rfl
@[simp] theorem linkOut_forgetEntry (s : State) (n : Name) : (s.forgetEntry n).linkOut = s.linkOut := rfl
@[simp] theorem ring_forgetEntry (s : State) (n : Name) (d : ClientId) : (s.forgetEntry n).ring d = s.ring d := rfl
@[simp] theorem client_forgetEntry (s : State) (n : Name) (d : ClientId) : (s.forgetEntry n).client d = s.client d := rfl
@[simp] theorem standing_forgetEntry (s : State) (n : Name) (d : ClientId) : (s.forgetEntry n).standing d = s.standing d := rfl
@[simp] theorem account_forgetEntry (s : State) (n : Name) (d : ClientId) : (s.forgetEntry n).account d = s.account d := rfl
@[simp] theorem lookup_forgetEntry (s : State) (n : Name) (nm : Name) : (s.forgetEntry n).entry? nm = s.entry? nm := rfl

@[simp] theorem pending_storeEntry (s : State) (e : LockEntry) : (s.storeEntry e).pending = s.pending := rfl
@[simp] theorem epoch_storeEntry (s : State) (e : LockEntry) : (s.storeEntry e).epoch = s.epoch := rfl
@[simp] theorem engine_storeEntry (s : State) (e : LockEntry) : (s.storeEntry e).engine = s.engine := rfl
@[simp] theorem haltCause_storeEntry (s : State) (e : LockEntry) : (s.storeEntry e).haltCause = s.haltCause := rfl
@[simp] theorem startRefusal_storeEntry (s : State) (e : LockEntry) : (s.storeEntry e).startRefusal = s.startRefusal := rfl
@[simp] theorem regs_storeEntry (s : State) (e : LockEntry) : (s.storeEntry e).regs = s.regs := rfl
@[simp] theorem capture_storeEntry (s : State) (e : LockEntry) : (s.storeEntry e).capture = s.capture := rfl
@[simp] theorem freeEntries_storeEntry (s : State) (e : LockEntry) : (s.storeEntry e).freeEntries = s.freeEntries := rfl
@[simp] theorem nextToken_storeEntry (s : State) (e : LockEntry) : (s.storeEntry e).nextToken = s.nextToken := rfl
@[simp] theorem poolFree_storeEntry (s : State) (e : LockEntry) : (s.storeEntry e).poolFree = s.poolFree := rfl
@[simp] theorem accounts_storeEntry (s : State) (e : LockEntry) : (s.storeEntry e).accounts = s.accounts := rfl
@[simp] theorem clock_storeEntry (s : State) (e : LockEntry) : (s.storeEntry e).clock = s.clock := rfl
@[simp] theorem standings_storeEntry (s : State) (e : LockEntry) : (s.storeEntry e).standings = s.standings := rfl
@[simp] theorem limits_storeEntry (s : State) (e : LockEntry) : (s.storeEntry e).limits = s.limits := rfl
@[simp] theorem standingQueue_storeEntry (s : State) (e : LockEntry) : (s.storeEntry e).standingQueue = s.standingQueue := rfl
@[simp] theorem watches_storeEntry (s : State) (e : LockEntry) : (s.storeEntry e).watches = s.watches := rfl
@[simp] theorem watchEvents_storeEntry (s : State) (e : LockEntry) : (s.storeEntry e).watchEvents = s.watchEvents := rfl
@[simp] theorem clients_storeEntry (s : State) (e : LockEntry) : (s.storeEntry e).clients = s.clients := rfl
@[simp] theorem rings_storeEntry (s : State) (e : LockEntry) : (s.storeEntry e).rings = s.rings := rfl
@[simp] theorem roundRobin_storeEntry (s : State) (e : LockEntry) : (s.storeEntry e).roundRobin = s.roundRobin := rfl
@[simp] theorem linkOut_storeEntry (s : State) (e : LockEntry) : (s.storeEntry e).linkOut = s.linkOut := rfl
@[simp] theorem ring_storeEntry (s : State) (e : LockEntry) (d : ClientId) : (s.storeEntry e).ring d = s.ring d := rfl
@[simp] theorem client_storeEntry (s : State) (e : LockEntry) (d : ClientId) : (s.storeEntry e).client d = s.client d := rfl
@[simp] theorem standing_storeEntry (s : State) (e : LockEntry) (d : ClientId) : (s.storeEntry e).standing d = s.standing d := rfl
@[simp] theorem account_storeEntry (s : State) (e : LockEntry) (d : ClientId) : (s.storeEntry e).account d = s.account d := rfl
@[simp] theorem recovery_storeEntry (s : State) (e : LockEntry) (d : ClientId) : (s.storeEntry e).recovery d = s.recovery d := rfl

@[simp] theorem pending_emit (s : State) (ev : WatchEvent) : (s.emit ev).pending = s.pending := rfl
@[simp] theorem epoch_emit (s : State) (ev : WatchEvent) : (s.emit ev).epoch = s.epoch := rfl
@[simp] theorem engine_emit (s : State) (ev : WatchEvent) : (s.emit ev).engine = s.engine := rfl
@[simp] theorem haltCause_emit (s : State) (ev : WatchEvent) : (s.emit ev).haltCause = s.haltCause := rfl
@[simp] theorem startRefusal_emit (s : State) (ev : WatchEvent) : (s.emit ev).startRefusal = s.startRefusal := rfl
@[simp] theorem regs_emit (s : State) (ev : WatchEvent) : (s.emit ev).regs = s.regs := rfl
@[simp] theorem capture_emit (s : State) (ev : WatchEvent) : (s.emit ev).capture = s.capture := rfl
@[simp] theorem table_emit (s : State) (ev : WatchEvent) : (s.emit ev).table = s.table := rfl
@[simp] theorem freeEntries_emit (s : State) (ev : WatchEvent) : (s.emit ev).freeEntries = s.freeEntries := rfl
@[simp] theorem nextToken_emit (s : State) (ev : WatchEvent) : (s.emit ev).nextToken = s.nextToken := rfl
@[simp] theorem poolFree_emit (s : State) (ev : WatchEvent) : (s.emit ev).poolFree = s.poolFree := rfl
@[simp] theorem accounts_emit (s : State) (ev : WatchEvent) : (s.emit ev).accounts = s.accounts := rfl
@[simp] theorem clock_emit (s : State) (ev : WatchEvent) : (s.emit ev).clock = s.clock := rfl
@[simp] theorem standings_emit (s : State) (ev : WatchEvent) : (s.emit ev).standings = s.standings := rfl
@[simp] theorem limits_emit (s : State) (ev : WatchEvent) : (s.emit ev).limits = s.limits := rfl
@[simp] theorem standingQueue_emit (s : State) (ev : WatchEvent) : (s.emit ev).standingQueue = s.standingQueue := rfl
@[simp] theorem watches_emit (s : State) (ev : WatchEvent) : (s.emit ev).watches = s.watches := rfl
@[simp] theorem clients_emit (s : State) (ev : WatchEvent) : (s.emit ev).clients = s.clients := rfl
@[simp] theorem rings_emit (s : State) (ev : WatchEvent) : (s.emit ev).rings = s.rings := rfl
@[simp] theorem roundRobin_emit (s : State) (ev : WatchEvent) : (s.emit ev).roundRobin = s.roundRobin := rfl
@[simp] theorem linkOut_emit (s : State) (ev : WatchEvent) : (s.emit ev).linkOut = s.linkOut := rfl
@[simp] theorem ring_emit (s : State) (ev : WatchEvent) (d : ClientId) : (s.emit ev).ring d = s.ring d := rfl
@[simp] theorem client_emit (s : State) (ev : WatchEvent) (d : ClientId) : (s.emit ev).client d = s.client d := rfl
@[simp] theorem standing_emit (s : State) (ev : WatchEvent) (d : ClientId) : (s.emit ev).standing d = s.standing d := rfl
@[simp] theorem account_emit (s : State) (ev : WatchEvent) (d : ClientId) : (s.emit ev).account d = s.account d := rfl
@[simp] theorem recovery_emit (s : State) (ev : WatchEvent) (d : ClientId) : (s.emit ev).recovery d = s.recovery d := rfl
@[simp] theorem lookup_emit (s : State) (ev : WatchEvent) (nm : Name) : (s.emit ev).entry? nm = s.entry? nm := rfl

@[simp] theorem pending_emitHold (s : State) (k : EventKind) (n : Name) (h : Holder) : (s.emitHold k n h).pending = s.pending := rfl
@[simp] theorem epoch_emitHold (s : State) (k : EventKind) (n : Name) (h : Holder) : (s.emitHold k n h).epoch = s.epoch := rfl
@[simp] theorem engine_emitHold (s : State) (k : EventKind) (n : Name) (h : Holder) : (s.emitHold k n h).engine = s.engine := rfl
@[simp] theorem haltCause_emitHold (s : State) (k : EventKind) (n : Name) (h : Holder) : (s.emitHold k n h).haltCause = s.haltCause := rfl
@[simp] theorem startRefusal_emitHold (s : State) (k : EventKind) (n : Name) (h : Holder) : (s.emitHold k n h).startRefusal = s.startRefusal := rfl
@[simp] theorem regs_emitHold (s : State) (k : EventKind) (n : Name) (h : Holder) : (s.emitHold k n h).regs = s.regs := rfl
@[simp] theorem capture_emitHold (s : State) (k : EventKind) (n : Name) (h : Holder) : (s.emitHold k n h).capture = s.capture := rfl
@[simp] theorem table_emitHold (s : State) (k : EventKind) (n : Name) (h : Holder) : (s.emitHold k n h).table = s.table := rfl
@[simp] theorem freeEntries_emitHold (s : State) (k : EventKind) (n : Name) (h : Holder) : (s.emitHold k n h).freeEntries = s.freeEntries := rfl
@[simp] theorem nextToken_emitHold (s : State) (k : EventKind) (n : Name) (h : Holder) : (s.emitHold k n h).nextToken = s.nextToken := rfl
@[simp] theorem poolFree_emitHold (s : State) (k : EventKind) (n : Name) (h : Holder) : (s.emitHold k n h).poolFree = s.poolFree := rfl
@[simp] theorem accounts_emitHold (s : State) (k : EventKind) (n : Name) (h : Holder) : (s.emitHold k n h).accounts = s.accounts := rfl
@[simp] theorem clock_emitHold (s : State) (k : EventKind) (n : Name) (h : Holder) : (s.emitHold k n h).clock = s.clock := rfl
@[simp] theorem standings_emitHold (s : State) (k : EventKind) (n : Name) (h : Holder) : (s.emitHold k n h).standings = s.standings := rfl
@[simp] theorem limits_emitHold (s : State) (k : EventKind) (n : Name) (h : Holder) : (s.emitHold k n h).limits = s.limits := rfl
@[simp] theorem standingQueue_emitHold (s : State) (k : EventKind) (n : Name) (h : Holder) : (s.emitHold k n h).standingQueue = s.standingQueue := rfl
@[simp] theorem watches_emitHold (s : State) (k : EventKind) (n : Name) (h : Holder) : (s.emitHold k n h).watches = s.watches := rfl
@[simp] theorem clients_emitHold (s : State) (k : EventKind) (n : Name) (h : Holder) : (s.emitHold k n h).clients = s.clients := rfl
@[simp] theorem rings_emitHold (s : State) (k : EventKind) (n : Name) (h : Holder) : (s.emitHold k n h).rings = s.rings := rfl
@[simp] theorem roundRobin_emitHold (s : State) (k : EventKind) (n : Name) (h : Holder) : (s.emitHold k n h).roundRobin = s.roundRobin := rfl
@[simp] theorem linkOut_emitHold (s : State) (k : EventKind) (n : Name) (h : Holder) : (s.emitHold k n h).linkOut = s.linkOut := rfl
@[simp] theorem ring_emitHold (s : State) (k : EventKind) (n : Name) (h : Holder) (d : ClientId) : (s.emitHold k n h).ring d = s.ring d := rfl
@[simp] theorem client_emitHold (s : State) (k : EventKind) (n : Name) (h : Holder) (d : ClientId) : (s.emitHold k n h).client d = s.client d := rfl
@[simp] theorem standing_emitHold (s : State) (k : EventKind) (n : Name) (h : Holder) (d : ClientId) : (s.emitHold k n h).standing d = s.standing d := rfl
@[simp] theorem account_emitHold (s : State) (k : EventKind) (n : Name) (h : Holder) (d : ClientId) : (s.emitHold k n h).account d = s.account d := rfl
@[simp] theorem recovery_emitHold (s : State) (k : EventKind) (n : Name) (h : Holder) (d : ClientId) : (s.emitHold k n h).recovery d = s.recovery d := rfl
@[simp] theorem lookup_emitHold (s : State) (k : EventKind) (n : Name) (h : Holder) (nm : Name) : (s.emitHold k n h).entry? nm = s.entry? nm := rfl

@[simp] theorem pending_emitGranted (s : State) (n : Name) (c : ClientId) (t : Token) (m : Mode) : (s.emitGranted n c t m).pending = s.pending := rfl
@[simp] theorem epoch_emitGranted (s : State) (n : Name) (c : ClientId) (t : Token) (m : Mode) : (s.emitGranted n c t m).epoch = s.epoch := rfl
@[simp] theorem engine_emitGranted (s : State) (n : Name) (c : ClientId) (t : Token) (m : Mode) : (s.emitGranted n c t m).engine = s.engine := rfl
@[simp] theorem haltCause_emitGranted (s : State) (n : Name) (c : ClientId) (t : Token) (m : Mode) : (s.emitGranted n c t m).haltCause = s.haltCause := rfl
@[simp] theorem startRefusal_emitGranted (s : State) (n : Name) (c : ClientId) (t : Token) (m : Mode) : (s.emitGranted n c t m).startRefusal = s.startRefusal := rfl
@[simp] theorem regs_emitGranted (s : State) (n : Name) (c : ClientId) (t : Token) (m : Mode) : (s.emitGranted n c t m).regs = s.regs := rfl
@[simp] theorem capture_emitGranted (s : State) (n : Name) (c : ClientId) (t : Token) (m : Mode) : (s.emitGranted n c t m).capture = s.capture := rfl
@[simp] theorem table_emitGranted (s : State) (n : Name) (c : ClientId) (t : Token) (m : Mode) : (s.emitGranted n c t m).table = s.table := rfl
@[simp] theorem freeEntries_emitGranted (s : State) (n : Name) (c : ClientId) (t : Token) (m : Mode) : (s.emitGranted n c t m).freeEntries = s.freeEntries := rfl
@[simp] theorem nextToken_emitGranted (s : State) (n : Name) (c : ClientId) (t : Token) (m : Mode) : (s.emitGranted n c t m).nextToken = s.nextToken := rfl
@[simp] theorem poolFree_emitGranted (s : State) (n : Name) (c : ClientId) (t : Token) (m : Mode) : (s.emitGranted n c t m).poolFree = s.poolFree := rfl
@[simp] theorem accounts_emitGranted (s : State) (n : Name) (c : ClientId) (t : Token) (m : Mode) : (s.emitGranted n c t m).accounts = s.accounts := rfl
@[simp] theorem clock_emitGranted (s : State) (n : Name) (c : ClientId) (t : Token) (m : Mode) : (s.emitGranted n c t m).clock = s.clock := rfl
@[simp] theorem standings_emitGranted (s : State) (n : Name) (c : ClientId) (t : Token) (m : Mode) : (s.emitGranted n c t m).standings = s.standings := rfl
@[simp] theorem limits_emitGranted (s : State) (n : Name) (c : ClientId) (t : Token) (m : Mode) : (s.emitGranted n c t m).limits = s.limits := rfl
@[simp] theorem standingQueue_emitGranted (s : State) (n : Name) (c : ClientId) (t : Token) (m : Mode) : (s.emitGranted n c t m).standingQueue = s.standingQueue := rfl
@[simp] theorem watches_emitGranted (s : State) (n : Name) (c : ClientId) (t : Token) (m : Mode) : (s.emitGranted n c t m).watches = s.watches := rfl
@[simp] theorem clients_emitGranted (s : State) (n : Name) (c : ClientId) (t : Token) (m : Mode) : (s.emitGranted n c t m).clients = s.clients := rfl
@[simp] theorem rings_emitGranted (s : State) (n : Name) (c : ClientId) (t : Token) (m : Mode) : (s.emitGranted n c t m).rings = s.rings := rfl
@[simp] theorem roundRobin_emitGranted (s : State) (n : Name) (c : ClientId) (t : Token) (m : Mode) : (s.emitGranted n c t m).roundRobin = s.roundRobin := rfl
@[simp] theorem linkOut_emitGranted (s : State) (n : Name) (c : ClientId) (t : Token) (m : Mode) : (s.emitGranted n c t m).linkOut = s.linkOut := rfl
@[simp] theorem ring_emitGranted (s : State) (n : Name) (c : ClientId) (t : Token) (m : Mode) (d : ClientId) : (s.emitGranted n c t m).ring d = s.ring d := rfl
@[simp] theorem client_emitGranted (s : State) (n : Name) (c : ClientId) (t : Token) (m : Mode) (d : ClientId) : (s.emitGranted n c t m).client d = s.client d := rfl
@[simp] theorem standing_emitGranted (s : State) (n : Name) (c : ClientId) (t : Token) (m : Mode) (d : ClientId) : (s.emitGranted n c t m).standing d = s.standing d := rfl
@[simp] theorem account_emitGranted (s : State) (n : Name) (c : ClientId) (t : Token) (m : Mode) (d : ClientId) : (s.emitGranted n c t m).account d = s.account d := rfl
@[simp] theorem recovery_emitGranted (s : State) (n : Name) (c : ClientId) (t : Token) (m : Mode) (d : ClientId) : (s.emitGranted n c t m).recovery d = s.recovery d := rfl
@[simp] theorem lookup_emitGranted (s : State) (n : Name) (c : ClientId) (t : Token) (m : Mode) (nm : Name) : (s.emitGranted n c t m).entry? nm = s.entry? nm := rfl

@[simp] theorem pending_drawToken (s : State) : (s.drawToken).pending = s.pending := rfl
@[simp] theorem epoch_drawToken (s : State) : (s.drawToken).epoch = s.epoch := rfl
@[simp] theorem engine_drawToken (s : State) : (s.drawToken).engine = s.engine := rfl
@[simp] theorem haltCause_drawToken (s : State) : (s.drawToken).haltCause = s.haltCause := rfl
@[simp] theorem startRefusal_drawToken (s : State) : (s.drawToken).startRefusal = s.startRefusal := rfl
@[simp] theorem regs_drawToken (s : State) : (s.drawToken).regs = s.regs := rfl
@[simp] theorem capture_drawToken (s : State) : (s.drawToken).capture = s.capture := rfl
@[simp] theorem table_drawToken (s : State) : (s.drawToken).table = s.table := rfl
@[simp] theorem freeEntries_drawToken (s : State) : (s.drawToken).freeEntries = s.freeEntries := rfl
@[simp] theorem poolFree_drawToken (s : State) : (s.drawToken).poolFree = s.poolFree := rfl
@[simp] theorem accounts_drawToken (s : State) : (s.drawToken).accounts = s.accounts := rfl
@[simp] theorem clock_drawToken (s : State) : (s.drawToken).clock = s.clock := rfl
@[simp] theorem standings_drawToken (s : State) : (s.drawToken).standings = s.standings := rfl
@[simp] theorem limits_drawToken (s : State) : (s.drawToken).limits = s.limits := rfl
@[simp] theorem standingQueue_drawToken (s : State) : (s.drawToken).standingQueue = s.standingQueue := rfl
@[simp] theorem watches_drawToken (s : State) : (s.drawToken).watches = s.watches := rfl
@[simp] theorem watchEvents_drawToken (s : State) : (s.drawToken).watchEvents = s.watchEvents := rfl
@[simp] theorem clients_drawToken (s : State) : (s.drawToken).clients = s.clients := rfl
@[simp] theorem rings_drawToken (s : State) : (s.drawToken).rings = s.rings := rfl
@[simp] theorem roundRobin_drawToken (s : State) : (s.drawToken).roundRobin = s.roundRobin := rfl
@[simp] theorem linkOut_drawToken (s : State) : (s.drawToken).linkOut = s.linkOut := rfl
@[simp] theorem ring_drawToken (s : State) (d : ClientId) : (s.drawToken).ring d = s.ring d := rfl
@[simp] theorem client_drawToken (s : State) (d : ClientId) : (s.drawToken).client d = s.client d := rfl
@[simp] theorem standing_drawToken (s : State) (d : ClientId) : (s.drawToken).standing d = s.standing d := rfl
@[simp] theorem account_drawToken (s : State) (d : ClientId) : (s.drawToken).account d = s.account d := rfl
@[simp] theorem recovery_drawToken (s : State) (d : ClientId) : (s.drawToken).recovery d = s.recovery d := rfl
@[simp] theorem lookup_drawToken (s : State) (nm : Name) : (s.drawToken).entry? nm = s.entry? nm := rfl

@[simp] theorem pending_appendHold (s : State) (c : ClientId) (i : HoldItem) : (s.appendHold c i).pending = s.pending := rfl
@[simp] theorem epoch_appendHold (s : State) (c : ClientId) (i : HoldItem) : (s.appendHold c i).epoch = s.epoch := rfl
@[simp] theorem engine_appendHold (s : State) (c : ClientId) (i : HoldItem) : (s.appendHold c i).engine = s.engine := rfl
@[simp] theorem haltCause_appendHold (s : State) (c : ClientId) (i : HoldItem) : (s.appendHold c i).haltCause = s.haltCause := rfl
@[simp] theorem startRefusal_appendHold (s : State) (c : ClientId) (i : HoldItem) : (s.appendHold c i).startRefusal = s.startRefusal := rfl
@[simp] theorem regs_appendHold (s : State) (c : ClientId) (i : HoldItem) : (s.appendHold c i).regs = s.regs := rfl
@[simp] theorem capture_appendHold (s : State) (c : ClientId) (i : HoldItem) : (s.appendHold c i).capture = s.capture := rfl
@[simp] theorem table_appendHold (s : State) (c : ClientId) (i : HoldItem) : (s.appendHold c i).table = s.table := rfl
@[simp] theorem freeEntries_appendHold (s : State) (c : ClientId) (i : HoldItem) : (s.appendHold c i).freeEntries = s.freeEntries := rfl
@[simp] theorem nextToken_appendHold (s : State) (c : ClientId) (i : HoldItem) : (s.appendHold c i).nextToken = s.nextToken := rfl
@[simp] theorem poolFree_appendHold (s : State) (c : ClientId) (i : HoldItem) : (s.appendHold c i).poolFree = s.poolFree := rfl
@[simp] theorem clock_appendHold (s : State) (c : ClientId) (i : HoldItem) : (s.appendHold c i).clock = s.clock := rfl
@[simp] theorem standings_appendHold (s : State) (c : ClientId) (i : HoldItem) : (s.appendHold c i).standings = s.standings := rfl
@[simp] theorem limits_appendHold (s : State) (c : ClientId) (i : HoldItem) : (s.appendHold c i).limits = s.limits := rfl
@[simp] theorem standingQueue_appendHold (s : State) (c : ClientId) (i : HoldItem) : (s.appendHold c i).standingQueue = s.standingQueue := rfl
@[simp] theorem watches_appendHold (s : State) (c : ClientId) (i : HoldItem) : (s.appendHold c i).watches = s.watches := rfl
@[simp] theorem watchEvents_appendHold (s : State) (c : ClientId) (i : HoldItem) : (s.appendHold c i).watchEvents = s.watchEvents := rfl
@[simp] theorem clients_appendHold (s : State) (c : ClientId) (i : HoldItem) : (s.appendHold c i).clients = s.clients := rfl
@[simp] theorem rings_appendHold (s : State) (c : ClientId) (i : HoldItem) : (s.appendHold c i).rings = s.rings := rfl
@[simp] theorem roundRobin_appendHold (s : State) (c : ClientId) (i : HoldItem) : (s.appendHold c i).roundRobin = s.roundRobin := rfl
@[simp] theorem linkOut_appendHold (s : State) (c : ClientId) (i : HoldItem) : (s.appendHold c i).linkOut = s.linkOut := rfl
@[simp] theorem ring_appendHold (s : State) (c : ClientId) (i : HoldItem) (d : ClientId) : (s.appendHold c i).ring d = s.ring d := rfl
@[simp] theorem client_appendHold (s : State) (c : ClientId) (i : HoldItem) (d : ClientId) : (s.appendHold c i).client d = s.client d := rfl
@[simp] theorem standing_appendHold (s : State) (c : ClientId) (i : HoldItem) (d : ClientId) : (s.appendHold c i).standing d = s.standing d := rfl
@[simp] theorem recovery_appendHold (s : State) (c : ClientId) (i : HoldItem) (d : ClientId) : (s.appendHold c i).recovery d = s.recovery d := rfl
@[simp] theorem lookup_appendHold (s : State) (c : ClientId) (i : HoldItem) (nm : Name) : (s.appendHold c i).entry? nm = s.entry? nm := rfl

@[simp] theorem pending_dropHold (s : State) (c : ClientId) (t : Token) : (s.dropHold c t).pending = s.pending := rfl
@[simp] theorem epoch_dropHold (s : State) (c : ClientId) (t : Token) : (s.dropHold c t).epoch = s.epoch := rfl
@[simp] theorem engine_dropHold (s : State) (c : ClientId) (t : Token) : (s.dropHold c t).engine = s.engine := rfl
@[simp] theorem haltCause_dropHold (s : State) (c : ClientId) (t : Token) : (s.dropHold c t).haltCause = s.haltCause := rfl
@[simp] theorem startRefusal_dropHold (s : State) (c : ClientId) (t : Token) : (s.dropHold c t).startRefusal = s.startRefusal := rfl
@[simp] theorem regs_dropHold (s : State) (c : ClientId) (t : Token) : (s.dropHold c t).regs = s.regs := rfl
@[simp] theorem capture_dropHold (s : State) (c : ClientId) (t : Token) : (s.dropHold c t).capture = s.capture := rfl
@[simp] theorem table_dropHold (s : State) (c : ClientId) (t : Token) : (s.dropHold c t).table = s.table := rfl
@[simp] theorem freeEntries_dropHold (s : State) (c : ClientId) (t : Token) : (s.dropHold c t).freeEntries = s.freeEntries := rfl
@[simp] theorem nextToken_dropHold (s : State) (c : ClientId) (t : Token) : (s.dropHold c t).nextToken = s.nextToken := rfl
@[simp] theorem poolFree_dropHold (s : State) (c : ClientId) (t : Token) : (s.dropHold c t).poolFree = s.poolFree := rfl
@[simp] theorem clock_dropHold (s : State) (c : ClientId) (t : Token) : (s.dropHold c t).clock = s.clock := rfl
@[simp] theorem standings_dropHold (s : State) (c : ClientId) (t : Token) : (s.dropHold c t).standings = s.standings := rfl
@[simp] theorem limits_dropHold (s : State) (c : ClientId) (t : Token) : (s.dropHold c t).limits = s.limits := rfl
@[simp] theorem standingQueue_dropHold (s : State) (c : ClientId) (t : Token) : (s.dropHold c t).standingQueue = s.standingQueue := rfl
@[simp] theorem watches_dropHold (s : State) (c : ClientId) (t : Token) : (s.dropHold c t).watches = s.watches := rfl
@[simp] theorem watchEvents_dropHold (s : State) (c : ClientId) (t : Token) : (s.dropHold c t).watchEvents = s.watchEvents := rfl
@[simp] theorem clients_dropHold (s : State) (c : ClientId) (t : Token) : (s.dropHold c t).clients = s.clients := rfl
@[simp] theorem rings_dropHold (s : State) (c : ClientId) (t : Token) : (s.dropHold c t).rings = s.rings := rfl
@[simp] theorem roundRobin_dropHold (s : State) (c : ClientId) (t : Token) : (s.dropHold c t).roundRobin = s.roundRobin := rfl
@[simp] theorem linkOut_dropHold (s : State) (c : ClientId) (t : Token) : (s.dropHold c t).linkOut = s.linkOut := rfl
@[simp] theorem ring_dropHold (s : State) (c : ClientId) (t : Token) (d : ClientId) : (s.dropHold c t).ring d = s.ring d := rfl
@[simp] theorem client_dropHold (s : State) (c : ClientId) (t : Token) (d : ClientId) : (s.dropHold c t).client d = s.client d := rfl
@[simp] theorem standing_dropHold (s : State) (c : ClientId) (t : Token) (d : ClientId) : (s.dropHold c t).standing d = s.standing d := rfl
@[simp] theorem recovery_dropHold (s : State) (c : ClientId) (t : Token) (d : ClientId) : (s.dropHold c t).recovery d = s.recovery d := rfl
@[simp] theorem lookup_dropHold (s : State) (c : ClientId) (t : Token) (nm : Name) : (s.dropHold c t).entry? nm = s.entry? nm := rfl

@[simp] theorem pending_addWait (s : State) (c : ClientId) : (s.addWait c).pending = s.pending := rfl
@[simp] theorem epoch_addWait (s : State) (c : ClientId) : (s.addWait c).epoch = s.epoch := rfl
@[simp] theorem engine_addWait (s : State) (c : ClientId) : (s.addWait c).engine = s.engine := rfl
@[simp] theorem haltCause_addWait (s : State) (c : ClientId) : (s.addWait c).haltCause = s.haltCause := rfl
@[simp] theorem startRefusal_addWait (s : State) (c : ClientId) : (s.addWait c).startRefusal = s.startRefusal := rfl
@[simp] theorem regs_addWait (s : State) (c : ClientId) : (s.addWait c).regs = s.regs := rfl
@[simp] theorem capture_addWait (s : State) (c : ClientId) : (s.addWait c).capture = s.capture := rfl
@[simp] theorem table_addWait (s : State) (c : ClientId) : (s.addWait c).table = s.table := rfl
@[simp] theorem freeEntries_addWait (s : State) (c : ClientId) : (s.addWait c).freeEntries = s.freeEntries := rfl
@[simp] theorem nextToken_addWait (s : State) (c : ClientId) : (s.addWait c).nextToken = s.nextToken := rfl
@[simp] theorem poolFree_addWait (s : State) (c : ClientId) : (s.addWait c).poolFree = s.poolFree := rfl
@[simp] theorem clock_addWait (s : State) (c : ClientId) : (s.addWait c).clock = s.clock := rfl
@[simp] theorem standings_addWait (s : State) (c : ClientId) : (s.addWait c).standings = s.standings := rfl
@[simp] theorem limits_addWait (s : State) (c : ClientId) : (s.addWait c).limits = s.limits := rfl
@[simp] theorem standingQueue_addWait (s : State) (c : ClientId) : (s.addWait c).standingQueue = s.standingQueue := rfl
@[simp] theorem watches_addWait (s : State) (c : ClientId) : (s.addWait c).watches = s.watches := rfl
@[simp] theorem watchEvents_addWait (s : State) (c : ClientId) : (s.addWait c).watchEvents = s.watchEvents := rfl
@[simp] theorem clients_addWait (s : State) (c : ClientId) : (s.addWait c).clients = s.clients := rfl
@[simp] theorem rings_addWait (s : State) (c : ClientId) : (s.addWait c).rings = s.rings := rfl
@[simp] theorem roundRobin_addWait (s : State) (c : ClientId) : (s.addWait c).roundRobin = s.roundRobin := rfl
@[simp] theorem linkOut_addWait (s : State) (c : ClientId) : (s.addWait c).linkOut = s.linkOut := rfl
@[simp] theorem ring_addWait (s : State) (c : ClientId) (d : ClientId) : (s.addWait c).ring d = s.ring d := rfl
@[simp] theorem client_addWait (s : State) (c : ClientId) (d : ClientId) : (s.addWait c).client d = s.client d := rfl
@[simp] theorem standing_addWait (s : State) (c : ClientId) (d : ClientId) : (s.addWait c).standing d = s.standing d := rfl
@[simp] theorem recovery_addWait (s : State) (c : ClientId) (d : ClientId) : (s.addWait c).recovery d = s.recovery d := rfl
@[simp] theorem lookup_addWait (s : State) (c : ClientId) (nm : Name) : (s.addWait c).entry? nm = s.entry? nm := rfl

@[simp] theorem pending_subWait (s : State) (c : ClientId) : (s.subWait c).pending = s.pending := rfl
@[simp] theorem epoch_subWait (s : State) (c : ClientId) : (s.subWait c).epoch = s.epoch := rfl
@[simp] theorem engine_subWait (s : State) (c : ClientId) : (s.subWait c).engine = s.engine := rfl
@[simp] theorem haltCause_subWait (s : State) (c : ClientId) : (s.subWait c).haltCause = s.haltCause := rfl
@[simp] theorem startRefusal_subWait (s : State) (c : ClientId) : (s.subWait c).startRefusal = s.startRefusal := rfl
@[simp] theorem regs_subWait (s : State) (c : ClientId) : (s.subWait c).regs = s.regs := rfl
@[simp] theorem capture_subWait (s : State) (c : ClientId) : (s.subWait c).capture = s.capture := rfl
@[simp] theorem table_subWait (s : State) (c : ClientId) : (s.subWait c).table = s.table := rfl
@[simp] theorem freeEntries_subWait (s : State) (c : ClientId) : (s.subWait c).freeEntries = s.freeEntries := rfl
@[simp] theorem nextToken_subWait (s : State) (c : ClientId) : (s.subWait c).nextToken = s.nextToken := rfl
@[simp] theorem poolFree_subWait (s : State) (c : ClientId) : (s.subWait c).poolFree = s.poolFree := rfl
@[simp] theorem clock_subWait (s : State) (c : ClientId) : (s.subWait c).clock = s.clock := rfl
@[simp] theorem standings_subWait (s : State) (c : ClientId) : (s.subWait c).standings = s.standings := rfl
@[simp] theorem limits_subWait (s : State) (c : ClientId) : (s.subWait c).limits = s.limits := rfl
@[simp] theorem standingQueue_subWait (s : State) (c : ClientId) : (s.subWait c).standingQueue = s.standingQueue := rfl
@[simp] theorem watches_subWait (s : State) (c : ClientId) : (s.subWait c).watches = s.watches := rfl
@[simp] theorem watchEvents_subWait (s : State) (c : ClientId) : (s.subWait c).watchEvents = s.watchEvents := rfl
@[simp] theorem clients_subWait (s : State) (c : ClientId) : (s.subWait c).clients = s.clients := rfl
@[simp] theorem rings_subWait (s : State) (c : ClientId) : (s.subWait c).rings = s.rings := rfl
@[simp] theorem roundRobin_subWait (s : State) (c : ClientId) : (s.subWait c).roundRobin = s.roundRobin := rfl
@[simp] theorem linkOut_subWait (s : State) (c : ClientId) : (s.subWait c).linkOut = s.linkOut := rfl
@[simp] theorem ring_subWait (s : State) (c : ClientId) (d : ClientId) : (s.subWait c).ring d = s.ring d := rfl
@[simp] theorem client_subWait (s : State) (c : ClientId) (d : ClientId) : (s.subWait c).client d = s.client d := rfl
@[simp] theorem standing_subWait (s : State) (c : ClientId) (d : ClientId) : (s.subWait c).standing d = s.standing d := rfl
@[simp] theorem recovery_subWait (s : State) (c : ClientId) (d : ClientId) : (s.subWait c).recovery d = s.recovery d := rfl
@[simp] theorem lookup_subWait (s : State) (c : ClientId) (nm : Name) : (s.subWait c).entry? nm = s.entry? nm := rfl

@[simp] theorem pending_loseToken (s : State) (c : ClientId) (t : Token) : (s.loseToken c t).pending = s.pending := rfl
@[simp] theorem epoch_loseToken (s : State) (c : ClientId) (t : Token) : (s.loseToken c t).epoch = s.epoch := rfl
@[simp] theorem engine_loseToken (s : State) (c : ClientId) (t : Token) : (s.loseToken c t).engine = s.engine := rfl
@[simp] theorem haltCause_loseToken (s : State) (c : ClientId) (t : Token) : (s.loseToken c t).haltCause = s.haltCause := rfl
@[simp] theorem startRefusal_loseToken (s : State) (c : ClientId) (t : Token) : (s.loseToken c t).startRefusal = s.startRefusal := rfl
@[simp] theorem regs_loseToken (s : State) (c : ClientId) (t : Token) : (s.loseToken c t).regs = s.regs := rfl
@[simp] theorem capture_loseToken (s : State) (c : ClientId) (t : Token) : (s.loseToken c t).capture = s.capture := rfl
@[simp] theorem table_loseToken (s : State) (c : ClientId) (t : Token) : (s.loseToken c t).table = s.table := rfl
@[simp] theorem freeEntries_loseToken (s : State) (c : ClientId) (t : Token) : (s.loseToken c t).freeEntries = s.freeEntries := rfl
@[simp] theorem nextToken_loseToken (s : State) (c : ClientId) (t : Token) : (s.loseToken c t).nextToken = s.nextToken := rfl
@[simp] theorem poolFree_loseToken (s : State) (c : ClientId) (t : Token) : (s.loseToken c t).poolFree = s.poolFree := rfl
@[simp] theorem clock_loseToken (s : State) (c : ClientId) (t : Token) : (s.loseToken c t).clock = s.clock := rfl
@[simp] theorem standings_loseToken (s : State) (c : ClientId) (t : Token) : (s.loseToken c t).standings = s.standings := rfl
@[simp] theorem limits_loseToken (s : State) (c : ClientId) (t : Token) : (s.loseToken c t).limits = s.limits := rfl
@[simp] theorem standingQueue_loseToken (s : State) (c : ClientId) (t : Token) : (s.loseToken c t).standingQueue = s.standingQueue := rfl
@[simp] theorem watches_loseToken (s : State) (c : ClientId) (t : Token) : (s.loseToken c t).watches = s.watches := rfl
@[simp] theorem watchEvents_loseToken (s : State) (c : ClientId) (t : Token) : (s.loseToken c t).watchEvents = s.watchEvents := rfl
@[simp] theorem clients_loseToken (s : State) (c : ClientId) (t : Token) : (s.loseToken c t).clients = s.clients := rfl
@[simp] theorem rings_loseToken (s : State) (c : ClientId) (t : Token) : (s.loseToken c t).rings = s.rings := rfl
@[simp] theorem roundRobin_loseToken (s : State) (c : ClientId) (t : Token) : (s.loseToken c t).roundRobin = s.roundRobin := rfl
@[simp] theorem linkOut_loseToken (s : State) (c : ClientId) (t : Token) : (s.loseToken c t).linkOut = s.linkOut := rfl
@[simp] theorem ring_loseToken (s : State) (c : ClientId) (t : Token) (d : ClientId) : (s.loseToken c t).ring d = s.ring d := rfl
@[simp] theorem client_loseToken (s : State) (c : ClientId) (t : Token) (d : ClientId) : (s.loseToken c t).client d = s.client d := rfl
@[simp] theorem standing_loseToken (s : State) (c : ClientId) (t : Token) (d : ClientId) : (s.loseToken c t).standing d = s.standing d := rfl
@[simp] theorem recovery_loseToken (s : State) (c : ClientId) (t : Token) (d : ClientId) : (s.loseToken c t).recovery d = s.recovery d := rfl
@[simp] theorem lookup_loseToken (s : State) (c : ClientId) (t : Token) (nm : Name) : (s.loseToken c t).entry? nm = s.entry? nm := rfl

@[simp] theorem pending_countRequest (s : State) (c : ClientId) : (s.countRequest c).pending = s.pending := rfl
@[simp] theorem epoch_countRequest (s : State) (c : ClientId) : (s.countRequest c).epoch = s.epoch := rfl
@[simp] theorem engine_countRequest (s : State) (c : ClientId) : (s.countRequest c).engine = s.engine := rfl
@[simp] theorem haltCause_countRequest (s : State) (c : ClientId) : (s.countRequest c).haltCause = s.haltCause := rfl
@[simp] theorem startRefusal_countRequest (s : State) (c : ClientId) : (s.countRequest c).startRefusal = s.startRefusal := rfl
@[simp] theorem regs_countRequest (s : State) (c : ClientId) : (s.countRequest c).regs = s.regs := rfl
@[simp] theorem capture_countRequest (s : State) (c : ClientId) : (s.countRequest c).capture = s.capture := rfl
@[simp] theorem table_countRequest (s : State) (c : ClientId) : (s.countRequest c).table = s.table := rfl
@[simp] theorem freeEntries_countRequest (s : State) (c : ClientId) : (s.countRequest c).freeEntries = s.freeEntries := rfl
@[simp] theorem nextToken_countRequest (s : State) (c : ClientId) : (s.countRequest c).nextToken = s.nextToken := rfl
@[simp] theorem poolFree_countRequest (s : State) (c : ClientId) : (s.countRequest c).poolFree = s.poolFree := rfl
@[simp] theorem clock_countRequest (s : State) (c : ClientId) : (s.countRequest c).clock = s.clock := rfl
@[simp] theorem standings_countRequest (s : State) (c : ClientId) : (s.countRequest c).standings = s.standings := rfl
@[simp] theorem limits_countRequest (s : State) (c : ClientId) : (s.countRequest c).limits = s.limits := rfl
@[simp] theorem standingQueue_countRequest (s : State) (c : ClientId) : (s.countRequest c).standingQueue = s.standingQueue := rfl
@[simp] theorem watches_countRequest (s : State) (c : ClientId) : (s.countRequest c).watches = s.watches := rfl
@[simp] theorem watchEvents_countRequest (s : State) (c : ClientId) : (s.countRequest c).watchEvents = s.watchEvents := rfl
@[simp] theorem clients_countRequest (s : State) (c : ClientId) : (s.countRequest c).clients = s.clients := rfl
@[simp] theorem rings_countRequest (s : State) (c : ClientId) : (s.countRequest c).rings = s.rings := rfl
@[simp] theorem roundRobin_countRequest (s : State) (c : ClientId) : (s.countRequest c).roundRobin = s.roundRobin := rfl
@[simp] theorem linkOut_countRequest (s : State) (c : ClientId) : (s.countRequest c).linkOut = s.linkOut := rfl
@[simp] theorem ring_countRequest (s : State) (c : ClientId) (d : ClientId) : (s.countRequest c).ring d = s.ring d := rfl
@[simp] theorem client_countRequest (s : State) (c : ClientId) (d : ClientId) : (s.countRequest c).client d = s.client d := rfl
@[simp] theorem standing_countRequest (s : State) (c : ClientId) (d : ClientId) : (s.countRequest c).standing d = s.standing d := rfl
@[simp] theorem recovery_countRequest (s : State) (c : ClientId) (d : ClientId) : (s.countRequest c).recovery d = s.recovery d := rfl
@[simp] theorem lookup_countRequest (s : State) (c : ClientId) (nm : Name) : (s.countRequest c).entry? nm = s.entry? nm := rfl

@[simp] theorem pending_setScore (s : State) (c : ClientId) (n : Nat) : (s.setScore c n).pending = s.pending := rfl
@[simp] theorem epoch_setScore (s : State) (c : ClientId) (n : Nat) : (s.setScore c n).epoch = s.epoch := rfl
@[simp] theorem engine_setScore (s : State) (c : ClientId) (n : Nat) : (s.setScore c n).engine = s.engine := rfl
@[simp] theorem haltCause_setScore (s : State) (c : ClientId) (n : Nat) : (s.setScore c n).haltCause = s.haltCause := rfl
@[simp] theorem startRefusal_setScore (s : State) (c : ClientId) (n : Nat) : (s.setScore c n).startRefusal = s.startRefusal := rfl
@[simp] theorem regs_setScore (s : State) (c : ClientId) (n : Nat) : (s.setScore c n).regs = s.regs := rfl
@[simp] theorem capture_setScore (s : State) (c : ClientId) (n : Nat) : (s.setScore c n).capture = s.capture := rfl
@[simp] theorem table_setScore (s : State) (c : ClientId) (n : Nat) : (s.setScore c n).table = s.table := rfl
@[simp] theorem freeEntries_setScore (s : State) (c : ClientId) (n : Nat) : (s.setScore c n).freeEntries = s.freeEntries := rfl
@[simp] theorem nextToken_setScore (s : State) (c : ClientId) (n : Nat) : (s.setScore c n).nextToken = s.nextToken := rfl
@[simp] theorem poolFree_setScore (s : State) (c : ClientId) (n : Nat) : (s.setScore c n).poolFree = s.poolFree := rfl
@[simp] theorem accounts_setScore (s : State) (c : ClientId) (n : Nat) : (s.setScore c n).accounts = s.accounts := rfl
@[simp] theorem clock_setScore (s : State) (c : ClientId) (n : Nat) : (s.setScore c n).clock = s.clock := rfl
@[simp] theorem limits_setScore (s : State) (c : ClientId) (n : Nat) : (s.setScore c n).limits = s.limits := rfl
@[simp] theorem standingQueue_setScore (s : State) (c : ClientId) (n : Nat) : (s.setScore c n).standingQueue = s.standingQueue := rfl
@[simp] theorem watches_setScore (s : State) (c : ClientId) (n : Nat) : (s.setScore c n).watches = s.watches := rfl
@[simp] theorem watchEvents_setScore (s : State) (c : ClientId) (n : Nat) : (s.setScore c n).watchEvents = s.watchEvents := rfl
@[simp] theorem clients_setScore (s : State) (c : ClientId) (n : Nat) : (s.setScore c n).clients = s.clients := rfl
@[simp] theorem rings_setScore (s : State) (c : ClientId) (n : Nat) : (s.setScore c n).rings = s.rings := rfl
@[simp] theorem roundRobin_setScore (s : State) (c : ClientId) (n : Nat) : (s.setScore c n).roundRobin = s.roundRobin := rfl
@[simp] theorem linkOut_setScore (s : State) (c : ClientId) (n : Nat) : (s.setScore c n).linkOut = s.linkOut := rfl
@[simp] theorem ring_setScore (s : State) (c : ClientId) (n : Nat) (d : ClientId) : (s.setScore c n).ring d = s.ring d := rfl
@[simp] theorem client_setScore (s : State) (c : ClientId) (n : Nat) (d : ClientId) : (s.setScore c n).client d = s.client d := rfl
@[simp] theorem account_setScore (s : State) (c : ClientId) (n : Nat) (d : ClientId) : (s.setScore c n).account d = s.account d := rfl
@[simp] theorem recovery_setScore (s : State) (c : ClientId) (n : Nat) (d : ClientId) : (s.setScore c n).recovery d = s.recovery d := rfl
@[simp] theorem lookup_setScore (s : State) (c : ClientId) (n : Nat) (nm : Name) : (s.setScore c n).entry? nm = s.entry? nm := rfl

@[simp] theorem pending_isolate (s : State) (c : ClientId) (w : Option CommandRef) : (s.isolate c w).pending = s.pending := rfl
@[simp] theorem epoch_isolate (s : State) (c : ClientId) (w : Option CommandRef) : (s.isolate c w).epoch = s.epoch := rfl
@[simp] theorem engine_isolate (s : State) (c : ClientId) (w : Option CommandRef) : (s.isolate c w).engine = s.engine := rfl
@[simp] theorem haltCause_isolate (s : State) (c : ClientId) (w : Option CommandRef) : (s.isolate c w).haltCause = s.haltCause := rfl
@[simp] theorem startRefusal_isolate (s : State) (c : ClientId) (w : Option CommandRef) : (s.isolate c w).startRefusal = s.startRefusal := rfl
@[simp] theorem regs_isolate (s : State) (c : ClientId) (w : Option CommandRef) : (s.isolate c w).regs = s.regs := rfl
@[simp] theorem capture_isolate (s : State) (c : ClientId) (w : Option CommandRef) : (s.isolate c w).capture = s.capture := rfl
@[simp] theorem table_isolate (s : State) (c : ClientId) (w : Option CommandRef) : (s.isolate c w).table = s.table := rfl
@[simp] theorem freeEntries_isolate (s : State) (c : ClientId) (w : Option CommandRef) : (s.isolate c w).freeEntries = s.freeEntries := rfl
@[simp] theorem nextToken_isolate (s : State) (c : ClientId) (w : Option CommandRef) : (s.isolate c w).nextToken = s.nextToken := rfl
@[simp] theorem poolFree_isolate (s : State) (c : ClientId) (w : Option CommandRef) : (s.isolate c w).poolFree = s.poolFree := rfl
@[simp] theorem accounts_isolate (s : State) (c : ClientId) (w : Option CommandRef) : (s.isolate c w).accounts = s.accounts := rfl
@[simp] theorem clock_isolate (s : State) (c : ClientId) (w : Option CommandRef) : (s.isolate c w).clock = s.clock := rfl
@[simp] theorem standings_isolate (s : State) (c : ClientId) (w : Option CommandRef) : (s.isolate c w).standings = s.standings := rfl
@[simp] theorem limits_isolate (s : State) (c : ClientId) (w : Option CommandRef) : (s.isolate c w).limits = s.limits := rfl
@[simp] theorem standingQueue_isolate (s : State) (c : ClientId) (w : Option CommandRef) : (s.isolate c w).standingQueue = s.standingQueue := rfl
@[simp] theorem watches_isolate (s : State) (c : ClientId) (w : Option CommandRef) : (s.isolate c w).watches = s.watches := rfl
@[simp] theorem watchEvents_isolate (s : State) (c : ClientId) (w : Option CommandRef) : (s.isolate c w).watchEvents = s.watchEvents := rfl
@[simp] theorem rings_isolate (s : State) (c : ClientId) (w : Option CommandRef) : (s.isolate c w).rings = s.rings := rfl
@[simp] theorem roundRobin_isolate (s : State) (c : ClientId) (w : Option CommandRef) : (s.isolate c w).roundRobin = s.roundRobin := rfl
@[simp] theorem linkOut_isolate (s : State) (c : ClientId) (w : Option CommandRef) : (s.isolate c w).linkOut = s.linkOut := rfl
@[simp] theorem ring_isolate (s : State) (c : ClientId) (w : Option CommandRef) (d : ClientId) : (s.isolate c w).ring d = s.ring d := rfl
@[simp] theorem standing_isolate (s : State) (c : ClientId) (w : Option CommandRef) (d : ClientId) : (s.isolate c w).standing d = s.standing d := rfl
@[simp] theorem account_isolate (s : State) (c : ClientId) (w : Option CommandRef) (d : ClientId) : (s.isolate c w).account d = s.account d := rfl
@[simp] theorem recovery_isolate (s : State) (c : ClientId) (w : Option CommandRef) (d : ClientId) : (s.isolate c w).recovery d = s.recovery d := rfl
@[simp] theorem lookup_isolate (s : State) (c : ClientId) (w : Option CommandRef) (nm : Name) : (s.isolate c w).entry? nm = s.entry? nm := rfl

@[simp] theorem pending_openBatch (s : State) : (s.openBatch).pending = s.pending := rfl
@[simp] theorem epoch_openBatch (s : State) : (s.openBatch).epoch = s.epoch := rfl
@[simp] theorem engine_openBatch (s : State) : (s.openBatch).engine = s.engine := rfl
@[simp] theorem haltCause_openBatch (s : State) : (s.openBatch).haltCause = s.haltCause := rfl
@[simp] theorem startRefusal_openBatch (s : State) : (s.openBatch).startRefusal = s.startRefusal := rfl
@[simp] theorem regs_openBatch (s : State) : (s.openBatch).regs = s.regs := rfl
@[simp] theorem capture_openBatch (s : State) : (s.openBatch).capture = s.capture := rfl
@[simp] theorem table_openBatch (s : State) : (s.openBatch).table = s.table := rfl
@[simp] theorem freeEntries_openBatch (s : State) : (s.openBatch).freeEntries = s.freeEntries := rfl
@[simp] theorem nextToken_openBatch (s : State) : (s.openBatch).nextToken = s.nextToken := rfl
@[simp] theorem poolFree_openBatch (s : State) : (s.openBatch).poolFree = s.poolFree := rfl
@[simp] theorem accounts_openBatch (s : State) : (s.openBatch).accounts = s.accounts := rfl
@[simp] theorem clock_openBatch (s : State) : (s.openBatch).clock = s.clock := rfl
@[simp] theorem standings_openBatch (s : State) : (s.openBatch).standings = s.standings := rfl
@[simp] theorem limits_openBatch (s : State) : (s.openBatch).limits = s.limits := rfl
@[simp] theorem standingQueue_openBatch (s : State) : (s.openBatch).standingQueue = s.standingQueue := rfl
@[simp] theorem watches_openBatch (s : State) : (s.openBatch).watches = s.watches := rfl
@[simp] theorem clients_openBatch (s : State) : (s.openBatch).clients = s.clients := rfl
@[simp] theorem rings_openBatch (s : State) : (s.openBatch).rings = s.rings := rfl
@[simp] theorem roundRobin_openBatch (s : State) : (s.openBatch).roundRobin = s.roundRobin := rfl
@[simp] theorem linkOut_openBatch (s : State) : (s.openBatch).linkOut = s.linkOut := rfl
@[simp] theorem ring_openBatch (s : State) (d : ClientId) : (s.openBatch).ring d = s.ring d := rfl
@[simp] theorem client_openBatch (s : State) (d : ClientId) : (s.openBatch).client d = s.client d := rfl
@[simp] theorem standing_openBatch (s : State) (d : ClientId) : (s.openBatch).standing d = s.standing d := rfl
@[simp] theorem account_openBatch (s : State) (d : ClientId) : (s.openBatch).account d = s.account d := rfl
@[simp] theorem recovery_openBatch (s : State) (d : ClientId) : (s.openBatch).recovery d = s.recovery d := rfl
@[simp] theorem lookup_openBatch (s : State) (nm : Name) : (s.openBatch).entry? nm = s.entry? nm := rfl

@[simp] theorem pending_closeBatch (s : State) : (s.closeBatch).pending = s.pending := rfl
@[simp] theorem epoch_closeBatch (s : State) : (s.closeBatch).epoch = s.epoch := rfl
@[simp] theorem engine_closeBatch (s : State) : (s.closeBatch).engine = s.engine := rfl
@[simp] theorem haltCause_closeBatch (s : State) : (s.closeBatch).haltCause = s.haltCause := rfl
@[simp] theorem startRefusal_closeBatch (s : State) : (s.closeBatch).startRefusal = s.startRefusal := rfl
@[simp] theorem regs_closeBatch (s : State) : (s.closeBatch).regs = s.regs := rfl
@[simp] theorem capture_closeBatch (s : State) : (s.closeBatch).capture = s.capture := rfl
@[simp] theorem table_closeBatch (s : State) : (s.closeBatch).table = s.table := rfl
@[simp] theorem freeEntries_closeBatch (s : State) : (s.closeBatch).freeEntries = s.freeEntries := rfl
@[simp] theorem nextToken_closeBatch (s : State) : (s.closeBatch).nextToken = s.nextToken := rfl
@[simp] theorem poolFree_closeBatch (s : State) : (s.closeBatch).poolFree = s.poolFree := rfl
@[simp] theorem accounts_closeBatch (s : State) : (s.closeBatch).accounts = s.accounts := rfl
@[simp] theorem clock_closeBatch (s : State) : (s.closeBatch).clock = s.clock := rfl
@[simp] theorem standings_closeBatch (s : State) : (s.closeBatch).standings = s.standings := rfl
@[simp] theorem limits_closeBatch (s : State) : (s.closeBatch).limits = s.limits := rfl
@[simp] theorem standingQueue_closeBatch (s : State) : (s.closeBatch).standingQueue = s.standingQueue := rfl
@[simp] theorem watches_closeBatch (s : State) : (s.closeBatch).watches = s.watches := rfl
@[simp] theorem clients_closeBatch (s : State) : (s.closeBatch).clients = s.clients := rfl
@[simp] theorem rings_closeBatch (s : State) : (s.closeBatch).rings = s.rings := rfl
@[simp] theorem roundRobin_closeBatch (s : State) : (s.closeBatch).roundRobin = s.roundRobin := rfl
@[simp] theorem linkOut_closeBatch (s : State) : (s.closeBatch).linkOut = s.linkOut := rfl
@[simp] theorem ring_closeBatch (s : State) (d : ClientId) : (s.closeBatch).ring d = s.ring d := rfl
@[simp] theorem client_closeBatch (s : State) (d : ClientId) : (s.closeBatch).client d = s.client d := rfl
@[simp] theorem standing_closeBatch (s : State) (d : ClientId) : (s.closeBatch).standing d = s.standing d := rfl
@[simp] theorem account_closeBatch (s : State) (d : ClientId) : (s.closeBatch).account d = s.account d := rfl
@[simp] theorem recovery_closeBatch (s : State) (d : ClientId) : (s.closeBatch).recovery d = s.recovery d := rfl
@[simp] theorem lookup_closeBatch (s : State) (nm : Name) : (s.closeBatch).entry? nm = s.entry? nm := rfl

@[simp] theorem pending_offerFault (s : State) (f : FaultInfo) : (s.offerFault f).pending = s.pending := rfl
@[simp] theorem epoch_offerFault (s : State) (f : FaultInfo) : (s.offerFault f).epoch = s.epoch := rfl
@[simp] theorem engine_offerFault (s : State) (f : FaultInfo) : (s.offerFault f).engine = s.engine := rfl
@[simp] theorem haltCause_offerFault (s : State) (f : FaultInfo) : (s.offerFault f).haltCause = s.haltCause := rfl
@[simp] theorem startRefusal_offerFault (s : State) (f : FaultInfo) : (s.offerFault f).startRefusal = s.startRefusal := rfl
@[simp] theorem regs_offerFault (s : State) (f : FaultInfo) : (s.offerFault f).regs = s.regs := rfl
@[simp] theorem table_offerFault (s : State) (f : FaultInfo) : (s.offerFault f).table = s.table := rfl
@[simp] theorem freeEntries_offerFault (s : State) (f : FaultInfo) : (s.offerFault f).freeEntries = s.freeEntries := rfl
@[simp] theorem nextToken_offerFault (s : State) (f : FaultInfo) : (s.offerFault f).nextToken = s.nextToken := rfl
@[simp] theorem poolFree_offerFault (s : State) (f : FaultInfo) : (s.offerFault f).poolFree = s.poolFree := rfl
@[simp] theorem accounts_offerFault (s : State) (f : FaultInfo) : (s.offerFault f).accounts = s.accounts := rfl
@[simp] theorem clock_offerFault (s : State) (f : FaultInfo) : (s.offerFault f).clock = s.clock := rfl
@[simp] theorem standings_offerFault (s : State) (f : FaultInfo) : (s.offerFault f).standings = s.standings := rfl
@[simp] theorem limits_offerFault (s : State) (f : FaultInfo) : (s.offerFault f).limits = s.limits := rfl
@[simp] theorem standingQueue_offerFault (s : State) (f : FaultInfo) : (s.offerFault f).standingQueue = s.standingQueue := rfl
@[simp] theorem watches_offerFault (s : State) (f : FaultInfo) : (s.offerFault f).watches = s.watches := rfl
@[simp] theorem watchEvents_offerFault (s : State) (f : FaultInfo) : (s.offerFault f).watchEvents = s.watchEvents := rfl
@[simp] theorem clients_offerFault (s : State) (f : FaultInfo) : (s.offerFault f).clients = s.clients := rfl
@[simp] theorem rings_offerFault (s : State) (f : FaultInfo) : (s.offerFault f).rings = s.rings := rfl
@[simp] theorem roundRobin_offerFault (s : State) (f : FaultInfo) : (s.offerFault f).roundRobin = s.roundRobin := rfl
@[simp] theorem linkOut_offerFault (s : State) (f : FaultInfo) : (s.offerFault f).linkOut = s.linkOut := rfl
@[simp] theorem ring_offerFault (s : State) (f : FaultInfo) (d : ClientId) : (s.offerFault f).ring d = s.ring d := rfl
@[simp] theorem client_offerFault (s : State) (f : FaultInfo) (d : ClientId) : (s.offerFault f).client d = s.client d := rfl
@[simp] theorem standing_offerFault (s : State) (f : FaultInfo) (d : ClientId) : (s.offerFault f).standing d = s.standing d := rfl
@[simp] theorem account_offerFault (s : State) (f : FaultInfo) (d : ClientId) : (s.offerFault f).account d = s.account d := rfl
@[simp] theorem recovery_offerFault (s : State) (f : FaultInfo) (d : ClientId) : (s.offerFault f).recovery d = s.recovery d := rfl
@[simp] theorem lookup_offerFault (s : State) (f : FaultInfo) (nm : Name) : (s.offerFault f).entry? nm = s.entry? nm := rfl

@[simp] theorem pending_visitedClient (s : State) (c : ClientId) : (s.visitedClient c).pending = s.pending := rfl
@[simp] theorem epoch_visitedClient (s : State) (c : ClientId) : (s.visitedClient c).epoch = s.epoch := rfl
@[simp] theorem engine_visitedClient (s : State) (c : ClientId) : (s.visitedClient c).engine = s.engine := rfl
@[simp] theorem haltCause_visitedClient (s : State) (c : ClientId) : (s.visitedClient c).haltCause = s.haltCause := rfl
@[simp] theorem startRefusal_visitedClient (s : State) (c : ClientId) : (s.visitedClient c).startRefusal = s.startRefusal := rfl
@[simp] theorem regs_visitedClient (s : State) (c : ClientId) : (s.visitedClient c).regs = s.regs := rfl
@[simp] theorem capture_visitedClient (s : State) (c : ClientId) : (s.visitedClient c).capture = s.capture := rfl
@[simp] theorem table_visitedClient (s : State) (c : ClientId) : (s.visitedClient c).table = s.table := rfl
@[simp] theorem freeEntries_visitedClient (s : State) (c : ClientId) : (s.visitedClient c).freeEntries = s.freeEntries := rfl
@[simp] theorem nextToken_visitedClient (s : State) (c : ClientId) : (s.visitedClient c).nextToken = s.nextToken := rfl
@[simp] theorem poolFree_visitedClient (s : State) (c : ClientId) : (s.visitedClient c).poolFree = s.poolFree := rfl
@[simp] theorem accounts_visitedClient (s : State) (c : ClientId) : (s.visitedClient c).accounts = s.accounts := rfl
@[simp] theorem standings_visitedClient (s : State) (c : ClientId) : (s.visitedClient c).standings = s.standings := rfl
@[simp] theorem limits_visitedClient (s : State) (c : ClientId) : (s.visitedClient c).limits = s.limits := rfl
@[simp] theorem standingQueue_visitedClient (s : State) (c : ClientId) : (s.visitedClient c).standingQueue = s.standingQueue := rfl
@[simp] theorem watches_visitedClient (s : State) (c : ClientId) : (s.visitedClient c).watches = s.watches := rfl
@[simp] theorem watchEvents_visitedClient (s : State) (c : ClientId) : (s.visitedClient c).watchEvents = s.watchEvents := rfl
@[simp] theorem clients_visitedClient (s : State) (c : ClientId) : (s.visitedClient c).clients = s.clients := rfl
@[simp] theorem rings_visitedClient (s : State) (c : ClientId) : (s.visitedClient c).rings = s.rings := rfl
@[simp] theorem roundRobin_visitedClient (s : State) (c : ClientId) : (s.visitedClient c).roundRobin = s.roundRobin := rfl
@[simp] theorem linkOut_visitedClient (s : State) (c : ClientId) : (s.visitedClient c).linkOut = s.linkOut := rfl
@[simp] theorem ring_visitedClient (s : State) (c : ClientId) (d : ClientId) : (s.visitedClient c).ring d = s.ring d := rfl
@[simp] theorem client_visitedClient (s : State) (c : ClientId) (d : ClientId) : (s.visitedClient c).client d = s.client d := rfl
@[simp] theorem standing_visitedClient (s : State) (c : ClientId) (d : ClientId) : (s.visitedClient c).standing d = s.standing d := rfl
@[simp] theorem account_visitedClient (s : State) (c : ClientId) (d : ClientId) : (s.visitedClient c).account d = s.account d := rfl
@[simp] theorem lookup_visitedClient (s : State) (c : ClientId) (nm : Name) : (s.visitedClient c).entry? nm = s.entry? nm := rfl

/-! ## Recovery counts under the sweeps' bookkeeping -/

@[simp] theorem recovery_forgetClient (s : State) (c d : ClientId) : (s.forgetClient c).recovery d = s.recovery d := rfl
@[simp] theorem recovery_forgetEntry (s : State) (n : Name) (d : ClientId) : (s.forgetEntry n).recovery d = s.recovery d := rfl
@[simp] theorem recovery_visitedClient (s : State) (c d : ClientId) : (s.visitedClient c).recovery d = s.recovery d := rfl

end State

end Sys2Proof.Machine
end

