-- ==== Sys2Proof/Laws/Queues.lean ====
section
/-! SUPPORT. What the shared operations of the Queue Unit do, said once: handing on a record, answering, notifying and draining
change one ring context and the link alone, and change them as Safety's functions of one ring context say. -/

namespace Sys2Proof.Machine

namespace State

@[simp] theorem setRing_same (s : State) (c : ClientId) : s.setRing c (s.ring c) = s := by
  simp [setRing, ring]

@[simp] theorem setRing_setRing (s : State) (c : ClientId) (a b : RingContext) :
    (s.setRing c a).setRing c b = s.setRing c b := by
  simp [setRing]

theorem ring_withRing (s : State) (c d : ClientId) (r : RingContext) :
    (s.withRing c r).ring d = if d = c then r else s.ring d := ring_setRing s c d r

@[simp] theorem ring_withRing_self (s : State) (c : ClientId) (r : RingContext) : (s.withRing c r).ring c = r :=
  ring_setRing_self s c r

end State

/-! ## Fetch states -/

namespace FetchState

@[simp] theorem isFetching_iff (f : FetchState) : f.isFetching = true ↔ ∃ index left, f = .fetching index left := by
  cases f <;> simp [isFetching]

theorem isFetching_false_iff (f : FetchState) : f.isFetching = false ↔ ∀ index left, f ≠ .fetching index left := by
  cases f <;> simp [isFetching]

@[simp] theorem abandon_idle : abandon .idle = .idle := rfl
@[simp] theorem abandon_fetching (index : Nat) (left : Bool) : abandon (.fetching index left) = .fetching index true := rfl
@[simp] theorem abandon_inHand (r : Record) : abandon (.inHand r) = .inHand r := rfl

@[simp] theorem abandon_eq_idle (f : FetchState) : f.abandon = .idle ↔ f = .idle := by cases f <;> simp

theorem abandon_of_not_fetching {f : FetchState} (h : ∀ index left, f ≠ .fetching index left) : f.abandon = f := by
  cases f with
  | fetching index left => exact absurd rfl (h index left)
  | idle | inHand _ => rfl

end FetchState

/-- What the loss of a read in flight leaves of the ring context. -/
theorem State.abandonRead_of_not_fetching (s : State) (c : ClientId) (h : ∀ index left, (s.ring c).fetch ≠ .fetching index left) :
    s.abandonRead c = s := by
  rw [abandonRead, FetchState.abandon_of_not_fetching h]; exact setRing_same s c

theorem State.abandonRead_fetching (s : State) (c : ClientId) {index : Nat} {left : Bool}
    (h : (s.ring c).fetch = .fetching index left) :
    s.abandonRead c = s.setRing c { s.ring c with fetch := .fetching index true } := by
  simp [abandonRead, h]

/-- The read path is free exactly when no client has a read in flight (R120). -/
theorem State.readPathFree_iff (s : State) : s.readPathFree = true ↔ ∀ c index left, (s.ring c).fetch ≠ .fetching index left := by
  have hc : ∀ c : ClientId, c ∈ Config.allClients := by decide
  simp only [readPathFree, List.all_eq_true, Bool.not_eq_true', FetchState.isFetching_false_iff]
  exact ⟨fun h c => h c (hc c), fun h c _ => h c⟩

/-- All that a returning read can do (R121): in hand, or discarded. -/
theorem returnRead_cases {c : ClientId} {bytes : Record} {s t : State} (h : returnRead c bytes s = some t) :
    ∃ index left, (s.ring c).fetch = .fetching index left ∧
      ((left = false ∧ (s.client c).state = .active ∧ (s.client c).teardown = none ∧
          t = s.setRing c { s.ring c with
            sqConsumer := ((s.ring c).sqConsumer + 1) % (s.ring c).place.sqSize, fetch := .inHand bytes }) ∨
        (¬ (left = false ∧ (s.client c).state = .active ∧ (s.client c).teardown = none) ∧
          t = (s.idleFetch c).releaseReservation c)) := by
  simp only [returnRead] at h
  split at h
  · rename_i index left hf
    refine ⟨index, left, hf, ?_⟩
    split at h
    · rename_i hc; exact .inl ⟨hc.1, hc.2.1, hc.2.2, (Option.some.inj h).symm⟩
    · rename_i hc; exact .inr ⟨hc, (Option.some.inj h).symm⟩
  · cases h
  · cases h

/-- All that a ring swap can do (R134): the new context, then the answers. -/
theorem swapRings_cases {c : ClientId} {s t : State} (h : swapRings c s = some t) :
    ∃ w, (s.client c).swap = some w ∧ (s.ring c).writing = none ∧ (s.ring c).reserved ≤ w.place.cqSize ∧
      t = w.waiting.foldl (fun u ref => u.answerRef ref .ok)
        ((s.setRing c ((s.ring c).swapped w.place)).setClient c { s.client c with swap := none }) := by
  simp only [swapRings] at h
  split at h
  · cases h
  · rename_i w hw
    split at h
    · cases h
    · rename_i hn
      rw [not_or] at hn
      exact ⟨w, hw, by simpa using hn.1, by omega, (Option.some.inj h).symm⟩

/-! ## One ring context -/

namespace RingContext

theorem accepted_frame (r : RingContext) (rec : Completion) :
    r.accepted rec = { r with writing := (r.accepted rec).writing, waiting := (r.accepted rec).waiting,
                              lost := (r.accepted rec).lost } := by
  unfold accepted; split <;> rfl

theorem begins_same (c : ClientId) (a b : RingContext) (h : b.writing = a.writing) : a.begins c b = [] := by
  unfold begins; rw [h]; cases a.writing <;> rfl

/-- `b` comes after `a` in an event that hands records on: the rings stand where they stood, and a write in flight stays. -/
def Later (a b : RingContext) : Prop := b.place = a.place ∧ ∀ w, a.writing = some w → b.writing = some w

theorem Later.refl (a : RingContext) : a.Later a := ⟨rfl, fun _ h => h⟩

theorem Later.trans {a b d : RingContext} (h : a.Later b) (k : b.Later d) : a.Later d :=
  ⟨k.1.trans h.1, fun w e => k.2 w (h.2 w e)⟩

theorem begins_trans (c : ClientId) {a b d : RingContext} (h : a.Later b) (k : b.Later d) :
    a.begins c b ++ b.begins c d = a.begins c d := by
  obtain ⟨hp, hw⟩ := h
  obtain ⟨_, kw⟩ := k
  unfold begins
  rcases ha : a.writing with _ | w
  · rcases hb : b.writing with _ | v
    · simp [hp]
    · simp [kw v hb]
  · rw [hw w ha, kw w (hw w ha)]; rfl

theorem accepted_later (r : RingContext) (rec : Completion) : r.Later (r.accepted rec) := by
  unfold accepted
  split
  · exact ⟨rfl, fun _ h => h⟩
  all_goals exact ⟨rfl, fun w h => by simp_all⟩

theorem claimed_later (r : RingContext) (n : Notice) : r.Later (r.claimed n) :=
  accepted_later { r with reserved := r.reserved + 1 } (.notice n)

theorem answered_later (silent : Bool) (r : RingContext) (a : Response) : r.Later (r.answered silent a) := by
  unfold answered; split
  · exact ⟨rfl, fun _ h => h⟩
  · exact accepted_later _ _

theorem noticed_later (c : ClientId) (r : RingContext) (n : Notice) : r.Later (r.noticed c n) := by
  unfold noticed; generalize (if c = 0 then 8 else 4) = d; split
  · exact claimed_later _ _
  · split <;> exact ⟨rfl, fun _ h => h⟩

theorem foldl_claimed_later (ns : List Notice) : ∀ r : RingContext, r.Later (ns.foldl claimed r) := by
  induction ns with
  | nil => exact Later.refl
  | cons n ns ih => exact fun r => (claimed_later r n).trans (ih _)

theorem drained_later (r : RingContext) : r.Later r.drained := by
  unfold drained
  exact Later.trans (b := { r with notices := _ }) ⟨rfl, fun _ h => h⟩ (foldl_claimed_later _ _)

theorem claimed_notices (r : RingContext) (n : Notice) (ns : List Notice) :
    { r with notices := ns }.claimed n = { r.claimed n with notices := ns } := by
  unfold claimed accepted
  rcases r.writing with _ | w <;> rcases r.waiting with _ | ⟨o, ws⟩ <;> rfl

theorem claimed_free (r : RingContext) (n : Notice) : (r.claimed n).free = r.free - 1 := by
  have h : (r.claimed n).place = r.place ∧ (r.claimed n).occupied = r.occupied ∧
      (r.claimed n).reserved = r.reserved + 1 := by
    unfold claimed accepted
    rcases r.writing with _ | w <;> rcases r.waiting with _ | ⟨o, ws⟩ <;> exact ⟨rfl, rfl, rfl⟩
  simp only [free, h]; omega

end RingContext

namespace State

/-- Two replacements of one context in an event are one. -/
theorem withRing_withRing (s : State) (c : ClientId) {a b : RingContext} (h : (s.ring c).Later a) (k : a.Later b) :
    (s.withRing c a).withRing c b = s.withRing c b := by
  have e := RingContext.begins_trans c h k
  simp only [withRing, ring, Fin.getElem_fin, Vector.getElem_set_self, Vector.set_set, List.append_assoc] at *
  rw [e]

end State

namespace State

@[simp] theorem pending_withRing (s : State) (c : ClientId) (r : RingContext) : (s.withRing c r).pending = s.pending := rfl
@[simp] theorem epoch_withRing (s : State) (c : ClientId) (r : RingContext) : (s.withRing c r).epoch = s.epoch := rfl
@[simp] theorem engine_withRing (s : State) (c : ClientId) (r : RingContext) : (s.withRing c r).engine = s.engine := rfl
@[simp] theorem haltCause_withRing (s : State) (c : ClientId) (r : RingContext) : (s.withRing c r).haltCause = s.haltCause := rfl
@[simp] theorem startRefusal_withRing (s : State) (c : ClientId) (r : RingContext) : (s.withRing c r).startRefusal = s.startRefusal := rfl
@[simp] theorem regs_withRing (s : State) (c : ClientId) (r : RingContext) : (s.withRing c r).regs = s.regs := rfl
@[simp] theorem capture_withRing (s : State) (c : ClientId) (r : RingContext) : (s.withRing c r).capture = s.capture := rfl
@[simp] theorem table_withRing (s : State) (c : ClientId) (r : RingContext) : (s.withRing c r).table = s.table := rfl
@[simp] theorem freeEntries_withRing (s : State) (c : ClientId) (r : RingContext) : (s.withRing c r).freeEntries = s.freeEntries := rfl
@[simp] theorem nextToken_withRing (s : State) (c : ClientId) (r : RingContext) : (s.withRing c r).nextToken = s.nextToken := rfl
@[simp] theorem poolFree_withRing (s : State) (c : ClientId) (r : RingContext) : (s.withRing c r).poolFree = s.poolFree := rfl
@[simp] theorem accounts_withRing (s : State) (c : ClientId) (r : RingContext) : (s.withRing c r).accounts = s.accounts := rfl
@[simp] theorem clock_withRing (s : State) (c : ClientId) (r : RingContext) : (s.withRing c r).clock = s.clock := rfl
@[simp] theorem standings_withRing (s : State) (c : ClientId) (r : RingContext) : (s.withRing c r).standings = s.standings := rfl
@[simp] theorem limits_withRing (s : State) (c : ClientId) (r : RingContext) : (s.withRing c r).limits = s.limits := rfl
@[simp] theorem standingQueue_withRing (s : State) (c : ClientId) (r : RingContext) : (s.withRing c r).standingQueue = s.standingQueue := rfl
@[simp] theorem watches_withRing (s : State) (c : ClientId) (r : RingContext) : (s.withRing c r).watches = s.watches := rfl
@[simp] theorem watchEvents_withRing (s : State) (c : ClientId) (r : RingContext) : (s.withRing c r).watchEvents = s.watchEvents := rfl
@[simp] theorem clients_withRing (s : State) (c : ClientId) (r : RingContext) : (s.withRing c r).clients = s.clients := rfl
@[simp] theorem roundRobin_withRing (s : State) (c : ClientId) (r : RingContext) : (s.withRing c r).roundRobin = s.roundRobin := rfl
@[simp] theorem client_withRing (s : State) (c : ClientId) (r : RingContext) (d : ClientId) : (s.withRing c r).client d = s.client d := rfl
@[simp] theorem standing_withRing (s : State) (c : ClientId) (r : RingContext) (d : ClientId) : (s.withRing c r).standing d = s.standing d := rfl
@[simp] theorem account_withRing (s : State) (c : ClientId) (r : RingContext) (d : ClientId) : (s.withRing c r).account d = s.account d := rfl
@[simp] theorem recovery_withRing (s : State) (c : ClientId) (r : RingContext) (d : ClientId) : (s.withRing c r).recovery d = s.recovery d := rfl
@[simp] theorem lookup_withRing (s : State) (c : ClientId) (r : RingContext) (nm : Name) : (s.withRing c r).entry? nm = s.entry? nm := rfl

@[simp] theorem pending_answeredTo (s : State) (c : ClientId) (a : Response) : (s.answeredTo c a).pending = s.pending := rfl
@[simp] theorem epoch_answeredTo (s : State) (c : ClientId) (a : Response) : (s.answeredTo c a).epoch = s.epoch := rfl
@[simp] theorem engine_answeredTo (s : State) (c : ClientId) (a : Response) : (s.answeredTo c a).engine = s.engine := rfl
@[simp] theorem haltCause_answeredTo (s : State) (c : ClientId) (a : Response) : (s.answeredTo c a).haltCause = s.haltCause := rfl
@[simp] theorem startRefusal_answeredTo (s : State) (c : ClientId) (a : Response) : (s.answeredTo c a).startRefusal = s.startRefusal := rfl
@[simp] theorem regs_answeredTo (s : State) (c : ClientId) (a : Response) : (s.answeredTo c a).regs = s.regs := rfl
@[simp] theorem capture_answeredTo (s : State) (c : ClientId) (a : Response) : (s.answeredTo c a).capture = s.capture := rfl
@[simp] theorem table_answeredTo (s : State) (c : ClientId) (a : Response) : (s.answeredTo c a).table = s.table := rfl
@[simp] theorem freeEntries_answeredTo (s : State) (c : ClientId) (a : Response) : (s.answeredTo c a).freeEntries = s.freeEntries := rfl
@[simp] theorem nextToken_answeredTo (s : State) (c : ClientId) (a : Response) : (s.answeredTo c a).nextToken = s.nextToken := rfl
@[simp] theorem poolFree_answeredTo (s : State) (c : ClientId) (a : Response) : (s.answeredTo c a).poolFree = s.poolFree := rfl
@[simp] theorem accounts_answeredTo (s : State) (c : ClientId) (a : Response) : (s.answeredTo c a).accounts = s.accounts := rfl
@[simp] theorem clock_answeredTo (s : State) (c : ClientId) (a : Response) : (s.answeredTo c a).clock = s.clock := rfl
@[simp] theorem standings_answeredTo (s : State) (c : ClientId) (a : Response) : (s.answeredTo c a).standings = s.standings := rfl
@[simp] theorem limits_answeredTo (s : State) (c : ClientId) (a : Response) : (s.answeredTo c a).limits = s.limits := rfl
@[simp] theorem standingQueue_answeredTo (s : State) (c : ClientId) (a : Response) : (s.answeredTo c a).standingQueue = s.standingQueue := rfl
@[simp] theorem watches_answeredTo (s : State) (c : ClientId) (a : Response) : (s.answeredTo c a).watches = s.watches := rfl
@[simp] theorem watchEvents_answeredTo (s : State) (c : ClientId) (a : Response) : (s.answeredTo c a).watchEvents = s.watchEvents := rfl
@[simp] theorem clients_answeredTo (s : State) (c : ClientId) (a : Response) : (s.answeredTo c a).clients = s.clients := rfl
@[simp] theorem roundRobin_answeredTo (s : State) (c : ClientId) (a : Response) : (s.answeredTo c a).roundRobin = s.roundRobin := rfl
@[simp] theorem client_answeredTo (s : State) (c : ClientId) (a : Response) (d : ClientId) : (s.answeredTo c a).client d = s.client d := rfl
@[simp] theorem standing_answeredTo (s : State) (c : ClientId) (a : Response) (d : ClientId) : (s.answeredTo c a).standing d = s.standing d := rfl
@[simp] theorem account_answeredTo (s : State) (c : ClientId) (a : Response) (d : ClientId) : (s.answeredTo c a).account d = s.account d := rfl
@[simp] theorem recovery_answeredTo (s : State) (c : ClientId) (a : Response) (d : ClientId) : (s.answeredTo c a).recovery d = s.recovery d := rfl
@[simp] theorem lookup_answeredTo (s : State) (c : ClientId) (a : Response) (nm : Name) : (s.answeredTo c a).entry? nm = s.entry? nm := rfl

@[simp] theorem pending_noticedTo (s : State) (c : ClientId) (n : Notice) : (s.noticedTo c n).pending = s.pending := by
  unfold noticedTo; split <;> rfl
@[simp] theorem epoch_noticedTo (s : State) (c : ClientId) (n : Notice) : (s.noticedTo c n).epoch = s.epoch := by
  unfold noticedTo; split <;> rfl
@[simp] theorem engine_noticedTo (s : State) (c : ClientId) (n : Notice) : (s.noticedTo c n).engine = s.engine := by
  unfold noticedTo; split <;> rfl
@[simp] theorem haltCause_noticedTo (s : State) (c : ClientId) (n : Notice) : (s.noticedTo c n).haltCause = s.haltCause := by
  unfold noticedTo; split <;> rfl
@[simp] theorem startRefusal_noticedTo (s : State) (c : ClientId) (n : Notice) : (s.noticedTo c n).startRefusal = s.startRefusal := by
  unfold noticedTo; split <;> rfl
@[simp] theorem regs_noticedTo (s : State) (c : ClientId) (n : Notice) : (s.noticedTo c n).regs = s.regs := by
  unfold noticedTo; split <;> rfl
@[simp] theorem capture_noticedTo (s : State) (c : ClientId) (n : Notice) : (s.noticedTo c n).capture = s.capture := by
  unfold noticedTo; split <;> rfl
@[simp] theorem table_noticedTo (s : State) (c : ClientId) (n : Notice) : (s.noticedTo c n).table = s.table := by
  unfold noticedTo; split <;> rfl
@[simp] theorem freeEntries_noticedTo (s : State) (c : ClientId) (n : Notice) : (s.noticedTo c n).freeEntries = s.freeEntries := by
  unfold noticedTo; split <;> rfl
@[simp] theorem nextToken_noticedTo (s : State) (c : ClientId) (n : Notice) : (s.noticedTo c n).nextToken = s.nextToken := by
  unfold noticedTo; split <;> rfl
@[simp] theorem poolFree_noticedTo (s : State) (c : ClientId) (n : Notice) : (s.noticedTo c n).poolFree = s.poolFree := by
  unfold noticedTo; split <;> rfl
@[simp] theorem accounts_noticedTo (s : State) (c : ClientId) (n : Notice) : (s.noticedTo c n).accounts = s.accounts := by
  unfold noticedTo; split <;> rfl
@[simp] theorem clock_noticedTo (s : State) (c : ClientId) (n : Notice) : (s.noticedTo c n).clock = s.clock := by
  unfold noticedTo; split <;> rfl
@[simp] theorem standings_noticedTo (s : State) (c : ClientId) (n : Notice) : (s.noticedTo c n).standings = s.standings := by
  unfold noticedTo; split <;> rfl
@[simp] theorem limits_noticedTo (s : State) (c : ClientId) (n : Notice) : (s.noticedTo c n).limits = s.limits := by
  unfold noticedTo; split <;> rfl
@[simp] theorem standingQueue_noticedTo (s : State) (c : ClientId) (n : Notice) : (s.noticedTo c n).standingQueue = s.standingQueue := by
  unfold noticedTo; split <;> rfl
@[simp] theorem watches_noticedTo (s : State) (c : ClientId) (n : Notice) : (s.noticedTo c n).watches = s.watches := by
  unfold noticedTo; split <;> rfl
@[simp] theorem watchEvents_noticedTo (s : State) (c : ClientId) (n : Notice) : (s.noticedTo c n).watchEvents = s.watchEvents := by
  unfold noticedTo; split <;> rfl
@[simp] theorem clients_noticedTo (s : State) (c : ClientId) (n : Notice) : (s.noticedTo c n).clients = s.clients := by
  unfold noticedTo; split <;> rfl
@[simp] theorem roundRobin_noticedTo (s : State) (c : ClientId) (n : Notice) : (s.noticedTo c n).roundRobin = s.roundRobin := by
  unfold noticedTo; split <;> rfl
@[simp] theorem client_noticedTo (s : State) (c : ClientId) (n : Notice) (d : ClientId) : (s.noticedTo c n).client d = s.client d := by
  unfold noticedTo; split <;> rfl
@[simp] theorem standing_noticedTo (s : State) (c : ClientId) (n : Notice) (d : ClientId) : (s.noticedTo c n).standing d = s.standing d := by
  unfold noticedTo; split <;> rfl
@[simp] theorem account_noticedTo (s : State) (c : ClientId) (n : Notice) (d : ClientId) : (s.noticedTo c n).account d = s.account d := by
  unfold noticedTo; split <;> rfl
@[simp] theorem recovery_noticedTo (s : State) (c : ClientId) (n : Notice) (d : ClientId) : (s.noticedTo c n).recovery d = s.recovery d := by
  unfold noticedTo; split <;> rfl
@[simp] theorem lookup_noticedTo (s : State) (c : ClientId) (n : Notice) (nm : Name) : (s.noticedTo c n).entry? nm = s.entry? nm := by
  unfold noticedTo; split <;> rfl

end State


/-! ## Handing on, answering, notifying -/

namespace State

theorem startWrite_of_writing (s : State) (c : ClientId) (w : WriteInFlight) (h : (s.ring c).writing = some w) :
    s.startWrite c = s := by
  unfold startWrite; rw [h]

theorem startWrite_of_waiting (s : State) (c : ClientId) (rec : Completion) (ws : List Completion)
    (h : (s.ring c).writing = none) (hq : (s.ring c).waiting = rec :: ws) :
    s.startWrite c =
      s.withRing c { s.ring c with writing := some ((s.ring c).writeOf rec), waiting := ws, lost := 0 } := by
  unfold startWrite; rw [h, hq]
  simp [withRing, setRing, put, RingContext.begins, RingContext.writeOf, entryAddress, h]

theorem startWrite_of_empty (s : State) (c : ClientId) (h : (s.ring c).waiting = []) : s.startWrite c = s := by
  unfold startWrite; rw [h]; cases (s.ring c).writing <;> rfl

/-- A context whose write in flight stays is replaced with nothing on the link. -/
theorem setRing_eq_withRing (s : State) (c : ClientId) (r : RingContext) (h : r.writing = (s.ring c).writing) :
    s.setRing c r = s.withRing c r := by
  simp [setRing, withRing, RingContext.begins_same _ _ _ h]

theorem withRing_setRing (s : State) (c : ClientId) (a b : RingContext) (h : a.writing = (s.ring c).writing)
    (hp : a.place = (s.ring c).place) : (s.setRing c a).withRing c b = s.withRing c b := by
  simp only [withRing, ring_setRing_self]
  simp [setRing, RingContext.begins, h, hp]

theorem handOn_eq (s : State) (c : ClientId) (rec : Completion) :
    s.handOn c rec = s.withRing c ((s.ring c).accepted rec) := by
  unfold handOn RingContext.accepted
  rcases hw : (s.ring c).writing with _ | w
  · rcases hq : (s.ring c).waiting with _ | ⟨old, ws⟩
    · rw [startWrite_of_waiting (rec := rec) (ws := []) (h := by simp [hw]) (hq := by simp), withRing_setRing]
      · simp [RingContext.writeOf]
      · rfl
      · rfl
    · rw [startWrite_of_waiting (rec := old) (ws := ws ++ [rec]) (h := by simp [hw]) (hq := by simp), withRing_setRing]
      · simp [RingContext.writeOf]
      · rfl
      · rfl
  · rw [startWrite_of_writing (w := w) (h := by simp [hw]), setRing_eq_withRing]
    · simp only [← hw]
    · rfl

theorem claim_eq (s : State) (c : ClientId) (n : Notice) : s.claim c n = s.withRing c ((s.ring c).claimed n) := by
  rw [claim, handOn_eq, ring_setRing_self, withRing_setRing] <;> rfl

theorem releaseReservation_of_muted (s : State) (c : ClientId) (h : (s.client c).muted = true) :
    s.releaseReservation c = s.withRing c (s.ring c).freed := by
  unfold releaseReservation drain
  rw [if_pos (by simpa using h)]
  exact setRing_eq_withRing _ _ _ rfl

/-- A response is handed on, or its reservation released, and nothing else happens (R124). -/
theorem respond_eq (s : State) (c : ClientId) (a : Response) : s.respond c a = s.answeredTo c a := by
  unfold respond answeredTo RingContext.answered
  cases h : (s.client c).muted
  · simp [handOn_eq]
  · simp [releaseReservation_of_muted, h]

/-- A notice is handed on, kept, counted lost or dropped, and nothing else happens (R126). -/
theorem notify_eq (s : State) (c : ClientId) (n : Notice) : s.notify c n = s.noticedTo c n := by
  unfold notify noticedTo RingContext.noticed
  by_cases hm : (s.client c).muted = true ∨ (s.client c).swap.isSome
  · simp [hm]
  · rw [if_neg (by simpa using hm), if_neg hm]
    split
    · exact claim_eq s c n
    · rename_i hf
      split <;> rename_i hd
      · rw [if_pos (by simpa [Config.noticeDepth] using hd)]
        exact setRing_eq_withRing _ _ _ rfl
      · rw [if_neg (by simpa [Config.noticeDepth] using hd)]
        simp only [satSucc, Config.max16]
        exact setRing_eq_withRing _ _ _ rfl

theorem drainFrom_eq (c : ClientId) (ns : List Notice) : ∀ s : State,
    s.drainFrom c ns =
      s.withRing c ((ns.take (min (s.ring c).free ns.length)).foldl RingContext.claimed
        { s.ring c with notices := ns.drop (min (s.ring c).free ns.length) }) := by
  induction ns with
  | nil => intro s; rw [drainFrom, setRing_eq_withRing _ _ _ (by rfl)]; simp
  | cons n rest ih =>
    intro s
    rw [drainFrom]
    split
    · rename_i hf
      rw [ih, claim_eq, ring_withRing_self, RingContext.claimed_free, withRing_withRing _ _ (RingContext.claimed_later _ _)]
      · congr 1
        have e : min (s.ring c).free (n :: rest).length = min ((s.ring c).free - 1) rest.length + 1 := by
          simp only [List.length_cons]; omega
        rw [e, List.take_succ_cons, List.drop_succ_cons, List.foldl_cons]
        exact congrArg (fun r => List.foldl RingContext.claimed r _) (RingContext.claimed_notices (s.ring c) n _).symm
      · exact RingContext.Later.trans (b := { (s.ring c).claimed n with notices := _ }) ⟨rfl, fun _ h => h⟩
          (RingContext.foldl_claimed_later _ _)
    · rename_i hf
      have e : (s.ring c).free = 0 := by omega
      rw [setRing_eq_withRing _ _ _ (by rfl), e]; simp

/-- The drain hands on as many notices of the list as there are free slots (R126). -/
theorem drain_eq (s : State) (c : ClientId) (h : (s.client c).muted = false) :
    s.drain c = s.withRing c (s.ring c).drained := by
  unfold drain
  rw [if_neg (by simp [h]), drainFrom_eq]
  rfl

/-- A reservation released for a client that is written to: the freed slot takes the oldest waiting notice (R124, R126). -/
theorem releaseReservation_eq (s : State) (c : ClientId) (h : (s.client c).muted = false) :
    s.releaseReservation c = s.withRing c (s.ring c).freed.drained := by
  unfold releaseReservation
  rw [setRing_eq_withRing _ _ _ (by rfl), drain_eq _ _ (by simpa using h), ring_withRing_self]
  exact withRing_withRing _ _ ⟨rfl, fun _ h => h⟩ (RingContext.drained_later _)

end State

/-! ## Grades -/

/-- The grade of a score, as the claims say it and as the Standing Unit computes it (R102). -/
@[simp] theorem gradeOf_eq_grades (l : Limits) (score : Nat) : gradeOf l score = l.grades score := rfl

end Sys2Proof.Machine
end

