-- ==== Sys2Proof/Laws/Records.lean ====
section
/-! SUPPORT. What taking a command as one event comes to: an event with its occasion, a lock event with its batch of watch
events, and a record in hand that intake refuses or passes. -/

namespace Sys2Proof.Machine

/-! ## Events -/

theorem takeEvent_running (s t : State) (k : State → Option State) (hr : s.engine = .running) (hk : k s.quiet = some t) :
    takeEvent s k = .next t := by
  simp [takeEvent, hr, hk]

@[simp] theorem takeReport_current (s : State) (o : Host.Outcome State Fault Refusal) : takeReport s.epoch s o = o := by
  simp [takeReport]

/-- The late report of an access that an engine reset has abandoned changes nothing (R151). -/
theorem takeReport_abandoned (epoch : Epoch) (s : State) (o : Host.Outcome State Fault Refusal) (h : epoch ≠ s.epoch) :
    takeReport epoch s o = .next s := by
  simp [takeReport, h]

theorem takeEvent_absent (s : State) (k : State → Option State) (hk : k s.quiet = none) : takeEvent s k = .next s := by
  simp [takeEvent, hk]

theorem takeEvent_not_running (s : State) (k : State → Option State) (hr : s.engine ≠ .running) :
    takeEvent s k = .next s := by
  simp [takeEvent, hr]

/-- An event answers a next state, whatever happens in it. -/
theorem takeEvent_next (s : State) (k : State → Option State) : ∃ t, takeEvent s k = .next t := ⟨_, rfl⟩

/-- A lock event whose grants stayed within the counter. -/
theorem takeLockEvent_running (s t : State) (k : State → Option State) (hr : s.engine = .running)
    (hk : k s.quiet.openBatch = some t) (ht : t.nextToken ≤ Config.tokenEnd) : takeLockEvent s k = .next t.closeBatch := by
  simp [takeLockEvent, takeEvent, hr, hk, State.settleTokens, ht]

/-- A lock event whose grants passed the end of the counter is not taken: the engine halts (R17). -/
theorem takeLockEvent_tokenSpace (s t : State) (k : State → Option State) (hr : s.engine = .running)
    (hk : k s.quiet.openBatch = some t) (ht : Config.tokenEnd < t.nextToken) :
    takeLockEvent s k = .next (s.quiet.halt .tokenSpace) := by
  simp [takeLockEvent, takeEvent, hr, hk, State.settleTokens, Nat.not_le.mpr ht]

theorem takeLockEvent_absent (s : State) (k : State → Option State) (hk : k s.quiet.openBatch = none) :
    takeLockEvent s k = .next s := by
  simp [takeLockEvent, takeEvent, hk]

theorem takeLockEvent_not_running (s : State) (k : State → Option State) (hr : s.engine ≠ .running) :
    takeLockEvent s k = .next s := by
  simp [takeLockEvent, takeEvent, hr]

/-! ## Batches of watch events -/

@[simp] theorem appendLast_append (ev : WatchEvent) (bs : List (List WatchEvent)) (b : List WatchEvent) :
    appendLast ev (bs ++ [b]) = bs ++ [b ++ [ev]] := by
  induction bs with
  | nil => rfl
  | cons a bs ih =>
    rw [List.cons_append, List.cons_append, ← ih]
    cases bs <;> rfl

@[simp] theorem closeLast_append (bs : List (List WatchEvent)) (b : List WatchEvent) :
    closeLast (bs ++ [b]) = if b = [] then bs else bs ++ [b] := by
  induction bs with
  | nil => simp [closeLast]
  | cons a bs ih =>
    have : closeLast (a :: (bs ++ [b])) = a :: closeLast (bs ++ [b]) := by cases bs <;> rfl
    rw [List.cons_append, this, ih]
    split <;> rfl

/-! ## Records in hand -/

namespace State

theorem takeRecord_passed {α : Type} (s : State) (q : ClientId) (op : Decode.Opcode) (r : Record)
    (read : Record → Option α) (names : α → List Name) (adjust : Limits → α → α) (owner : Taken → α → State → State) (f : α)
    (hi : (s.ring q).fetch = .inHand r) (ho : Decode.opcode r = some op) (hf : read r = some f)
    (hp : ¬ (op.isCommand ∧ q ≠ 0)) (hn : (names f).all (fun n => (s.client q).admits n)) :
    s.takeRecord q op read names adjust owner =
      some (owner (s.takenAs q r) (if (s.takenAs q r).cap.isSome then adjust s.limits f else f) (s.idleFetch q)) := by
  simp only [takeRecord, hi, ho, if_true, intake, intakeCheck, hf]
  rw [if_neg hp, if_pos hn]

theorem takeRecord_refused {α : Type} (s : State) (q : ClientId) (op : Decode.Opcode) (r : Record)
    (read : Record → Option α) (names : α → List Name) (adjust : Limits → α → α) (owner : Taken → α → State → State)
    (status : Status) (charge : Nat)
    (hi : (s.ring q).fetch = .inHand r) (ho : Decode.opcode r = some op)
    (hc : intakeCheck s q op (read r) names = .refused status charge) :
    s.takeRecord q op read names adjust owner = some (s.refuseAtIntake (s.takenAs q r) status charge) := by
  simp only [takeRecord, hi, ho, if_true, intake, hc]

theorem takenAs_client (s : State) (q : ClientId) (r : Record) : (s.takenAs q r).client = q := rfl

/-- The answer to the record in hand, where the record's client stands as it stood (R123). -/
theorem answerWith_eq (t : State) (s : State) (q : ClientId) (r : Record) (status : Status) (body : Body) :
    t.answerWith (s.takenAs q r) status body = t.alsoReplied s q r status body := by
  simp only [answerWith, respond_eq]; rfl

theorem answer_eq (t : State) (s : State) (q : ClientId) (r : Record) (status : Status) :
    t.answer (s.takenAs q r) status = t.alsoReplied s q r status .empty := answerWith_eq t s q r status .empty

theorem quiet_idleFetch (s : State) (q : ClientId) : s.quiet.idleFetch q = s.recordTaken q := rfl

theorem takenAs_quiet (s : State) (q : ClientId) (r : Record) : s.quiet.takenAs q r = s.takenAs q r := rfl
theorem takenAs_openBatch (s : State) (q : ClientId) (r : Record) : s.openBatch.takenAs q r = s.takenAs q r := rfl

theorem replied_eq (s : State) (q : ClientId) (r : Record) (status : Status) (body : Body) :
    (s.recordTaken q).alsoReplied s q r status body = s.replied q r status body := rfl

end State

/-! ## The opcode byte -/

/-- The bytes of a field, as the claims say them and as the decoder reads them. -/
theorem bytesOf_eq_fieldNat (r : Record) (off len : Nat) : bytesOf r off len = Decode.fieldNat r off len := by
  simp [bytesOf, Decode.fieldNat, Decode.field, BitVec.extractLsb'_toNat, Nat.shiftRight_eq_div_pow, pow_mul]

/-- The decoder reads from byte 0 the opcode that 11.1 gives that byte. -/
theorem opcode_eq_some_iff (r : Record) (op : Decode.Opcode) : Decode.opcode r = some op ↔ bytesOf r 0 1 = opcodeByte op := by
  rw [bytesOf_eq_fieldNat, Decode.opcode]
  generalize Decode.fieldNat r 0 1 = n
  unfold Decode.opcodeOfNat
  constructor
  · intro h
    split at h <;> (simp only [Option.some.injEq, reduceCtorEq] at h; try (subst h; rfl))
  · rintro rfl
    cases op <;> rfl

/-- The record of a ready kind is read as that kind. -/
theorem Ready.decoded {s : State} {q : ClientId} {op : Decode.Opcode} {r : Record} (h : Ready s q op r) :
    Decode.opcode r = some op := (opcode_eq_some_iff r op).mpr h.opcode

/-! ## A ready record is taken by its owner -/

/-- The name window, as intake tests it and as the claims say it. -/
theorem all_admits_iff (s : State) (q : ClientId) (names : List Name) :
    names.all (fun n => (s.client q).admits n) = true ↔ s.windowAdmits q names := by
  simp [State.windowAdmits, ClientRecord.admits, covers, List.all_eq_true]

/-- A record in hand that passes intake, where its owner takes it in an event of its own. -/
theorem takeEvent_record {α : Type} {s : State} {q : ClientId} {op : Decode.Opcode} {r : Record}
    (read : Record → Option α) (names : α → List Name) (adjust : Limits → α → α) (owner : Taken → α → State → State) (f : α)
    (h : Ready s q op r) (hf : read r = some f) (hp : op.isCommand = true → q = 0) (hn : s.windowAdmits q (names f)) :
    takeEvent s (fun s1 => s1.takeRecord q op read names adjust owner) =
      .next (owner (s.takenAs q r) (if (s.takenAs q r).cap.isSome then adjust s.limits f else f) (s.recordTaken q)) := by
  apply takeEvent_running _ _ _ h.running
  exact State.takeRecord_passed s.quiet q op r read names adjust owner f h.inHand h.decoded hf
    (fun ⟨a, b⟩ => b (hp a)) ((all_admits_iff s q _).mpr hn)

/-- The same for an event at a lock entry: its watch events are one batch, and its grants stayed within the counter. -/
theorem takeLockEvent_record {α : Type} {s : State} {q : ClientId} {op : Decode.Opcode} {r : Record}
    (read : Record → Option α) (names : α → List Name) (adjust : Limits → α → α) (owner : Taken → α → State → State) (f : α)
    (h : Ready s q op r) (hf : read r = some f) (hp : op.isCommand = true → q = 0) (hn : s.windowAdmits q (names f)) (t : State)
    (ht : owner (s.takenAs q r) (if (s.takenAs q r).cap.isSome then adjust s.limits f else f) (s.recordTaken q).openBatch = t)
    (hk : t.nextToken ≤ 2 ^ 64) :
    takeLockEvent s (fun s1 => s1.takeRecord q op read names adjust owner) = .next t.closeBatch := by
  apply takeLockEvent_running _ _ _ h.running _ hk
  rw [← ht]
  exact State.takeRecord_passed s.quiet.openBatch q op r read names adjust owner f h.inHand h.decoded hf
    (fun ⟨a, b⟩ => b (hp a)) ((all_admits_iff s q _).mpr hn)

/-- A batch that stayed empty leaves no trace. -/
theorem closeBatch_openBatch (s : State) : s.openBatch.closeBatch = s := by
  simp [State.openBatch, State.closeBatch]

theorem answeredTo_openBatch (s : State) (c : ClientId) (a : Response) :
    s.openBatch.answeredTo c a = (s.answeredTo c a).openBatch := rfl

end Sys2Proof.Machine
end

