-- ==== Sys2Proof/Laws/Table.lean ====
section
/-! SUPPORT. The lock table and its entries, said once in the words of Safety: looking up after storing and removing, the holder
slots read in order, the tests of a request and of a head waiter, and the fields of a record as intake leaves them. -/

namespace Sys2Proof.Machine

/-! ## Looking up -/

theorem find_putEntry (e : LockEntry) (name : Name) (es : List LockEntry) :
    (putEntry e es).find? (fun x => x.name == name) =
      if e.name = name then some e else es.find? (fun x => x.name == name) := by
  induction es with
  | nil => by_cases h : e.name = name <;> simp [putEntry, h]
  | cons x xs ih =>
    unfold putEntry
    by_cases h : x.name = e.name
    · rw [if_pos h]
      by_cases k : e.name = name
      · simp [k]
      · simp [k, h]
    · rw [if_neg h]
      split
      · by_cases k : e.name = name
        · simp [k]
        · simp [List.find?_cons, k]
      · by_cases k : e.name = name
        · have : ¬ x.name = name := fun q => h (q.trans k.symm)
          simp [this, ih, k]
        · simp [List.find?_cons, ih, k]

/-- A stored entry is found by its name, and every other name is looked up as before (R1). -/
theorem State.lookup_storeEntry (s : State) (e : LockEntry) (name : Name) :
    (s.storeEntry e).entry? name = if e.name = name then some e else s.entry? name :=
  find_putEntry e name s.table

theorem find_filter_name (name other : Name) (es : List LockEntry) :
    (es.filter (fun x => x.name != name)).find? (fun x => x.name == other) =
      if other = name then none else es.find? (fun x => x.name == other) := by
  induction es with
  | nil => by_cases h : other = name <;> simp [h]
  | cons x xs ih =>
    by_cases h : x.name = name
    · have e : (x :: xs).filter (fun x => x.name != name) = xs.filter (fun x => x.name != name) := by simp [h]
      rw [e, ih]
      by_cases k : other = name
      · simp [k]
      · have : ¬ x.name = other := fun q => k (q.symm.trans h)
        simp [k, this]
    · have e : (x :: xs).filter (fun x => x.name != name) = x :: xs.filter (fun x => x.name != name) := by simp [h]
      rw [e, List.find?_cons, List.find?_cons, ih]
      by_cases k : x.name = other
      · have : ¬ other = name := fun q => h (k.trans q)
        simp [k, this]
      · have b : (x.name == other) = false := by simp [k]
        rw [b]

/-- A removed entry is absent, and every other name is looked up as before (R12). -/
theorem State.lookup_removeEntry (s : State) (name other : Name) :
    (s.removeEntry name).entry? other = if other = name then none else s.entry? other :=
  find_filter_name name other s.table

theorem State.name_of_lookup {s : State} {name : Name} {e : LockEntry} (h : s.entry? name = some e) : e.name = name := by
  unfold State.entry? at h
  have := List.find?_some (p := fun e : LockEntry => e.name == name) h
  simpa using this

theorem State.mem_of_lookup {s : State} {name : Name} {e : LockEntry} (h : s.entry? name = some e) : e ∈ s.table :=
  List.mem_of_find?_eq_some h

/-! ## Holder slots -/

namespace LockEntry

theorem mem_holders (e : LockEntry) (i : SlotId) (h : Holder) : (i, h) ∈ e.holders ↔ e.slots[i] = some h := by
  have hi : i ∈ Config.allSlots := by revert i; decide
  simp only [holders, List.mem_filterMap, Option.map_eq_some_iff]
  constructor
  · rintro ⟨j, _, k, hk, he⟩
    cases he; exact hk
  · exact fun hk => ⟨i, hi, h, hk, rfl⟩

theorem slots_toList (e : LockEntry) : e.slots.toList = Config.allSlots.map (fun i => e.slots[i]) := by
  apply List.ext_getElem
  · simp [Config.allSlots]
  · intro n h1 h2
    simp only [Vector.length_toList] at h1
    simp only [Vector.getElem_toList, List.getElem_map, Fin.getElem_fin]
    have : ((Config.allSlots[n]'(by simpa [Config.allSlots] using h1)) : Fin 8).val = n := by
      match n, h1 with
      | 0, _ | 1, _ | 2, _ | 3, _ | 4, _ | 5, _ | 6, _ | 7, _ => rfl
      | n + 8, h1 => omega
    simp only [this]

theorem holderCount_eq (e : LockEntry) : e.holderCount = e.holds := by
  unfold holderCount holders holds
  rw [slots_toList]
  generalize Config.allSlots = l
  induction l with
  | nil => rfl
  | cons i l ih =>
    rw [List.map_cons, List.filterMap_cons, List.filter_cons]
    simp only [Fin.getElem_fin] at ih ⊢
    cases h : e.slots[i.val] <;> simp [ih]

theorem allSlots_sorted : Config.allSlots.Pairwise (· < ·) := by decide
theorem mem_allSlots : ∀ i : SlotId, i ∈ Config.allSlots := by decide

/-- The hold that the first matching slot carries. -/
theorem find_holders {e : LockEntry} {p : SlotId × Holder → Bool} {i : SlotId} {h : Holder} (hs : e.slots[i] = some h)
    (hp : p (i, h) = true) (hlow : ∀ (j : SlotId) (k : Holder), j < i → e.slots[j] = some k → p (j, k) = false) :
    e.holders.find? p = some (i, h) := by
  have hi := mem_allSlots i
  unfold holders
  have key : ∀ l : List SlotId, l.Pairwise (· < ·) → i ∈ l →
      (l.filterMap (fun j => (e.slots[j]).map (fun h => (j, h)))).find? p = some (i, h) := by
    intro l
    induction l with
    | nil => intro _ h; cases h
    | cons j l ih =>
      intro hl hm
      rw [List.pairwise_cons] at hl
      rw [List.filterMap_cons]
      rcases List.mem_cons.mp hm with rfl | hm
      · rw [hs]; simp [hp]
      · have hj := hl.1 i hm
        rcases hk : e.slots[j] with _ | k
        · simpa using ih hl.2 hm
        · simp only [Option.map_some]
          rw [List.find?_cons_of_neg (by simp [hlow j k hj hk])]
          exact ih hl.2 hm
  exact key _ allSlots_sorted hi

theorem find_holders_none {e : LockEntry} {p : SlotId × Holder → Bool}
    (h : ∀ (i : SlotId) (k : Holder), e.slots[i] = some k → p (i, k) = false) : e.holders.find? p = none := by
  rw [List.find?_eq_none]
  rintro ⟨i, k⟩ hm
  simp [h i k ((e.mem_holders i k).mp hm)]

theorem firstHeld_holder {e : LockEntry} {i : SlotId} {h : Holder} (hf : e.firstHeld i h) : e.firstHolder = h.client := by
  have := find_holders (p := fun _ => true) hf.1 rfl (fun j k hj hk => by rw [hf.2 j hj] at hk; cases hk)
  unfold firstHolder
  revert this
  cases e.holders with
  | nil => simp
  | cons a l => intro h; simp at h; rw [h]

theorem report_eq {e : LockEntry} {i : SlotId} {h : Holder} (hf : e.firstHeld i h) (n : Nat) :
    e.report n = e.reportWith h n := by
  simp [report, reportWith, firstHeld_holder hf, holderCount_eq]

theorem freeSlot_eq {e : LockEntry} {i : SlotId} (h : e.lowestFree i) : e.freeSlot? = some i := by
  have hi := mem_allSlots i
  unfold freeSlot?
  have key : ∀ l : List SlotId, l.Pairwise (· < ·) → i ∈ l → l.find? (fun i => (e.slots[i]).isNone) = some i := by
    intro l
    induction l with
    | nil => intro _ h; cases h
    | cons j l ih =>
      intro hl hm
      rw [List.pairwise_cons] at hl
      rcases List.mem_cons.mp hm with rfl | hm
      · rw [List.find?_cons_of_pos]; rw [h.1]; rfl
      · rw [List.find?_cons_of_neg]
        · exact ih hl.2 hm
        · have := h.2 j (hl.1 i hm)
          simpa using this
  exact key _ allSlots_sorted hi

theorem lowestFree_of_freeSlot {e : LockEntry} {i : SlotId} (h : e.freeSlot? = some i) : e.lowestFree i := by
  unfold freeSlot? at h
  have h1 : (e.slots[i]).isNone = true := List.find?_some (p := fun i : SlotId => (e.slots[i]).isNone) h
  refine ⟨by simpa using h1, fun j hj hn => ?_⟩
  have hl : e.lowestFree j ∨ ∃ k, k < j ∧ e.slots[k] = none := by
    by_cases hk : ∃ k, k < j ∧ e.slots[k] = none
    · exact .inr hk
    · exact .inl ⟨hn, fun k hk' hn' => hk ⟨k, hk', hn'⟩⟩
  -- the least free slot is found, and it is at most j
  have : ∃ m, m ≤ j ∧ e.lowestFree m := by
    have hmin : ∀ n : Nat, ∀ j : SlotId, j.val ≤ n → e.slots[j] = none → ∃ m, m ≤ j ∧ e.lowestFree m := by
      intro n
      induction n with
      | zero =>
        intro j hj hn
        refine ⟨j, Fin.le_refl j, hn, fun k hk => ?_⟩
        have : k.val < j.val := hk
        omega
      | succ n ih =>
        intro j hj hn
        by_cases hk : ∃ k, k < j ∧ e.slots[k] = none
        · obtain ⟨k, hkj, hk⟩ := hk
          have : k.val < j.val := hkj
          obtain ⟨m, hm, hl⟩ := ih k (by omega) hk
          exact ⟨m, Fin.le_of_lt (Fin.lt_of_le_of_lt hm hkj), hl⟩
        · exact ⟨j, Fin.le_refl j, hn, fun k hk' hn' => hk ⟨k, hk', hn'⟩⟩
    exact hmin j.val j (Nat.le_refl _) hn
  obtain ⟨m, hm, hl⟩ := this
  have e1 := freeSlot_eq hl
  unfold freeSlot? at e1
  rw [h] at e1; cases e1
  exact absurd (Fin.lt_of_le_of_lt hm hj) (Fin.lt_irrefl _)

theorem freeSlot_isSome (e : LockEntry) : e.freeSlot?.isSome = true ↔ ∃ i, e.lowestFree i := by
  constructor
  · intro h
    obtain ⟨i, hi⟩ := Option.isSome_iff_exists.mp h
    exact ⟨i, lowestFree_of_freeSlot hi⟩
  · rintro ⟨i, hi⟩; rw [freeSlot_eq hi]; rfl

theorem grantableNow_iff (e : LockEntry) (m : Mode) : e.grantableNow m = true ↔ e.admitsAtOnce m := by
  simp only [grantableNow, admitsAtOnce, Bool.and_eq_true, beq_iff_eq, freeSlot_isSome, List.isEmpty_iff, Option.isNone_iff_eq_none]
  exact ⟨fun ⟨⟨⟨⟨a, b⟩, c⟩, d⟩, f⟩ => ⟨a, b, c, d, f⟩, fun ⟨a, b, c, d, f⟩ => ⟨⟨⟨⟨a, b⟩, c⟩, d⟩, f⟩⟩

theorem headGrantable_iff (e : LockEntry) (m : Mode) :
    e.headGrantable m = true ↔ e.holds = 0 ∨ (m = .shared ∧ e.mode = .shared ∧ ∃ i, e.lowestFree i) := by
  simp only [headGrantable, Bool.or_eq_true, Bool.and_eq_true, beq_iff_eq, freeSlot_isSome, holderCount_eq, and_assoc]

/-- Client `c` stands nowhere on the entry (R4). -/
theorem without_iff (e : LockEntry) (c : ClientId) :
    e.without c ↔ (e.holderOf? c).isSome = false ∧ (e.waiterOf? c).isSome = false := by
  simp only [without, holderOf?, waiterOf?, Option.isSome_eq_false_iff, Option.isNone_iff_eq_none, List.find?_eq_none,
    beq_iff_eq]
  constructor
  · rintro ⟨a, b⟩
    exact ⟨fun ⟨i, h⟩ hm => a i h ((e.mem_holders i h).mp hm), b⟩
  · rintro ⟨a, b⟩
    exact ⟨fun i h hs => a (i, h) ((e.mem_holders i h).mpr hs), b⟩

theorem holderOf_isSome {e : LockEntry} {c : ClientId} {i : SlotId} {h : Holder} (hs : e.slots[i] = some h) (hc : h.client = c) :
    (e.holderOf? c).isSome = true := by
  rw [holderOf?, List.find?_isSome]
  exact ⟨(i, h), (e.mem_holders i h).mpr hs, by simp [hc]⟩

theorem holderOf_none {e : LockEntry} {c : ClientId} (h : ∀ (i : SlotId) (k : Holder), e.slots[i] = some k → k.client ≠ c) :
    (e.holderOf? c).isSome = false := by
  rw [holderOf?, find_holders_none]
  · rfl
  · intro i k hk; simpa using h i k hk

theorem waiterOf_isSome {e : LockEntry} {w : Waiter} (hw : w ∈ e.waiters) : (e.waiterOf? w.client).isSome = true := by
  rw [waiterOf?, List.find?_isSome]; exact ⟨w, hw, by simp⟩

end LockEntry

/-! ## Clients and the fields of a record -/

theorem State.unfit_iff (s : State) (c : ClientId) : (s.client c).unfit = false ↔ s.fit c := by
  simp only [ClientRecord.unfit, State.fit, Bool.or_eq_false_iff, beq_eq_false_iff_ne, ne_eq, Option.isSome_eq_false_iff,
    Option.isNone_iff_eq_none, and_assoc]

theorem State.unfit_of_not_fit {s : State} {c : ClientId} (h : ¬ s.fit c) : (s.client c).unfit = true := by
  cases k : (s.client c).unfit
  · exact absurd ((s.unfit_iff c).mp k) h
  · rfl

/-- A client that can take a grant is written to. -/
theorem State.muted_of_fit {s : State} {c : ClientId} (h : s.fit c) : (s.client c).muted = false := by
  simp [ClientRecord.muted, h.2.1, h.2.2]

theorem State.takenAs_cap (s : State) (q : ClientId) (r : Record) :
    (s.takenAs q r).cap = if (s.standing q).grade = .restricted then some s.limits.leaseCap else none := rfl

/-- The effective lease of a field, after the adjustment of a RESTRICTED client's record (R21, R105). -/
theorem effectiveLease_eq (s : State) (q : ClientId) (r : Record) (field : Nat) :
    effectiveLease (if (s.takenAs q r).cap.isSome then cappedLease s.limits field else field)
      (s.client q).config.defaultLease (s.takenAs q r).cap = s.leaseFor q field := by
  simp only [State.takenAs_cap, State.leaseFor, effectiveLease, cappedLease]
  by_cases h : (s.standing q).grade = .restricted
  · simp only [h, if_true, Option.isSome_some]
    by_cases k : field = 0
    · simp [k]
    · simp only [k, if_false]
      by_cases z : min field s.limits.leaseCap = 0
      · have : s.limits.leaseCap = 0 := by omega
        simp [this]
      · simp [z]
  · simp [h]

/-- The wait of a record as it is stored (R22, R105). -/
theorem storedWait_eq (s : State) (q : ClientId) (r : Record) (field : Nat) :
    storedWait (if (s.takenAs q r).cap.isSome then cappedWait s.limits field else field) = s.waitFor q field := by
  simp only [State.takenAs_cap, State.waitFor, storedWait, cappedWait, Config.waitWithoutLimit]
  by_cases h : (s.standing q).grade = .restricted
  · simp only [h, if_true, Option.isSome_some, true_and]; rfl
  · simp only [h, if_false, Option.isSome_none, Bool.false_eq_true]; rfl

theorem wait_zero_iff (s : State) (q : ClientId) (r : Record) (field : Nat) :
    (if (s.takenAs q r).cap.isSome then cappedWait s.limits field else field) = 0 ↔ s.waitFor q field = some 0 := by
  rw [← storedWait_eq s q r]
  generalize (if (s.takenAs q r).cap.isSome = true then cappedWait s.limits field else field) = w
  unfold storedWait Config.waitWithoutLimit
  split
  · simp; omega
  · simp

theorem priority_eq (s : State) (q : ClientId) (r : Record) (field : Nat) :
    (if (s.takenAs q r).cap.isSome then 7 else field) = s.priorityFor q field := by
  simp only [State.takenAs_cap, State.priorityFor]
  by_cases h : (s.standing q).grade = .restricted <;> simp [h]

theorem State.atHoldQuota_iff (s : State) (c : ClientId) : s.atHoldQuota c = false ↔ s.holdRoom c := by
  simp [atHoldQuota, holdRoom]

theorem State.atWaitQuota_iff (s : State) (c : ClientId) : s.atWaitQuota c = false ↔ s.waitRoom c := by
  simp [atWaitQuota, waitRoom]

/-! ## Finding a hold -/

theorem State.findHold_found {s : State} {c : ClientId} {name : Name} {token : Token} {e : LockEntry} {i : SlotId} {h : Holder}
    (k : s.holdsAt c name token e i h) : s.findHold c name token = some { entry := e, slot := i, hold := h } := by
  obtain ⟨he, hs, hc, ht, hl⟩ := k
  unfold findHold
  rw [he]; simp only
  rw [LockEntry.find_holders hs (by simp [hc, ht])
    (fun j k hj hk => by have := hl j k hj hk; simp only [Bool.and_eq_false_iff, beq_eq_false_iff_ne]; exact (Decidable.not_and_iff_not_or_not.mp this).symm)]

theorem State.findHold_lost {s : State} {c : ClientId} {name : Name} {token : Token} (k : s.holdsNot c name token) :
    s.findHold c name token = none := by
  unfold findHold
  cases he : s.entry? name with
  | none => rfl
  | some e =>
    simp only
    rw [LockEntry.find_holders_none]
    intro i h hs
    have := k e i h he hs
    simp only [Bool.and_eq_false_iff, beq_eq_false_iff_ne]; exact (Decidable.not_and_iff_not_or_not.mp this).symm

end Sys2Proof.Machine
end

