-- ==== Sys2Proof/WellFormed.lean ====
section
/-! DEFINITION. Which operands a command's row of the table admits: a Bool per command, and one check per kind of operand.
Ill-formed commands are not refused by exec (each has the effect its state gives it, mostly none); this says what a sender
may mean. -/

namespace Sys2Proof

/-- Clients 1 to 31: the clients that have a lifecycle (R130, R131). -/
def ordinaryClient (c : ClientId) : Bool := c != 0

/-- A lock name is not 0 (R1). -/
def realName (n : Name) : Bool := n != 0

/-- A token that can be issued is not 0 (R16). -/
def realToken (t : Token) : Bool := t != 0

/-- A charge is one of the amounts of R100. -/
def realCharge (n : Nat) : Bool := [2, 4, 8, 16].contains n

/-- A write that no other row of the table names: not POST, not FAULT CLEAR, and not an ENGINE CONTROL word that requests START
or SOFT RESET (11.3). -/
def otherRegister (offset : BitVec 12) (value : Word) : Bool :=
  Decode.registerWrite offset value == .registerWrite offset value

/-- The operands are those of the row. -/
def Instr.wellFormed : Instr → Bool
  | .acquire _ => true
  | .tryAcquireSet _ => true
  | .release _ => true
  | .renew _ => true
  | .upgrade _ => true
  | .downgrade _ => true
  | .cancel _ => true
  | .watch _ => true
  | .unwatch _ => true
  | .nop _ => true
  | .configureClient _ => true
  | .configureClientRingSwap c => ordinaryClient c
  | .enableClient _ => true
  | .disableClient _ => true
  | .resetClient _ => true
  | .reinstateClient _ => true
  | .setStanding _ => true
  | .forceRelease _ => true
  | .queryLock _ => true
  | .queryClient _ => true
  | .setTimebase _ => true
  | .setLimits _ => true
  | .submit _ _ => true
  | .consumed _ _ => true
  | .arm _ _ => true
  | .postUndefinedKind _ _ => true
  | .start => true
  | .softReset _ => true
  | .faultClear _ => true
  | .registerWrite offset value => otherRegister offset value
  | .powerOn => true
  | .hostLinkReset => true
  | .fetchGrant => true
  | .fetchReadReturn _ _ => true
  | .completionWriteEnd _ => true
  | .clientSubmissionReadFault access _ => ordinaryClient access.client
  | .clientCompletionWriteFault access _ => ordinaryClient access.client
  | .controlReadFault _ => true
  | .controlWriteFault _ => true
  | .tick => true
  | .owedTickSweep => true
  | .tickVisitEntry name => realName name
  | .leaseExpiry name token => realName name && realToken token
  | .waitExpiry name _ _ => realName name
  | .upgradeWaitExpiry name _ => realName name
  | .recoveryVisit c => ordinaryClient c
  | .recoveryComplete c => ordinaryClient c
  | .standingCharge _ amount => realCharge amount
  | .standingCredit _ => true
  | .teardownRemoveWaiter c name => ordinaryClient c && realName name
  | .teardownRemoveUpgrade c name => ordinaryClient c && realName name
  | .teardownRevokeHold c => ordinaryClient c
  | .teardownRemoveWatches c => ordinaryClient c
  | .teardownEnd c => ordinaryClient c
  | .watchEventMatch name => realName name
  | .unknownOpcode _ => true

end Sys2Proof
end

