-- ==== Sys2Proof/Tests/Slice0.lean ====
section
/-! SUPPORT. Tests. Each takes its expected values from the manual: a worked example, a table of encodings, or a rule. A test
runs one step on a small state. The witnesses show, for each statement of the Obligations, a concrete state and operands that
meet its hypotheses together. -/

namespace Sys2Proof.Tests

open Sys2Proof.Machine

-- The tests are elaborated one after another: each waits for the kernel, and a thread for each would not fit in memory.
set_option Elab.async false

/-! ## Helpers -/

/-- A record from its fields (byte offset, length, value). -/
def bytes (fields : List (Nat × Nat × Nat)) : Record := BitVec.ofNat 512 (packFields fields)

/-- Rings of 64 entries for client `n`. -/
def ringsOf (n : Nat) : RingPlace :=
  { sqBase := BitVec.ofNat 64 (65536 * (n + 1)), sqSize := 64, cqBase := BitVec.ofNat 64 (65536 * (n + 1) + 32768), cqSize := 64 }

/-- A client ACTIVE with the default quotas and lease, whose window admits every name (R134). -/
def active : ClientRecord :=
  { state := .active, teardown := none, recoveryPending := false, swap := none,
    config := { vector := 5, windowCode := 0, windowMask := 0, defaultLease := 1000, holdQuota := 32, waitQuota := 8 } }

/-- The engine RUNNING, with clients 1 to 9 ACTIVE, and the token counter at 41. -/
def base : State :=
  let s := { State.reset with engine := .running, nextToken := 41 }.setRing 0 (RingContext.reset (ringsOf 0))
  [(1 : ClientId), 2, 3, 4, 5, 6, 7, 8, 9].foldl
    (fun t c => (t.setClient c active).setRing c (RingContext.reset (ringsOf c.val))) s

/-- The record is in hand for `q`: the tenth of its ring, with its reservation. -/
def hand (s : State) (q : ClientId) (r : Record) : State :=
  s.setRing q { s.ring q with fetch := .inHand r, reserved := (s.ring q).reserved + 1, sqConsumer := 10, sqPosted := 10 }

/-- The state after a command. -/
def after (i : Instr) (s : State) : State := match exec i s with | .next t => t | _ => s

/-- What a client's completion ring was handed, oldest first. -/
def handedTo (s : State) (c : ClientId) : List Completion := (s.ring c).handed

/-- A response of a record in hand by `hand`. -/
def said (status : Status) (tag : Tag) (body : Body) : Completion :=
  .response { status := status, tag := tag, index := 10, body := body }

def hold (c : ClientId) (token : Token) (m : Mode) : Holder :=
  { client := c, token := token, mode := m, lease := 1000, tag := 7, expiryRaised := false }

def waits (c : ClientId) (m : Mode) (priority : Nat) : Waiter :=
  { client := c, tag := 9, order := 5, mode := m, priority := priority, wait := some 200, lease := 1000, waited := 12,
    report := { holder := 1, holders := 1, ahead := 0, mode := .shared }, index := 3, expiryRaised := false }

def upgrading (c : ClientId) (i : SlotId) : PendingUpgrade :=
  { slot := i, client := c, tag := 0x21, order := 6, wait := some 100, waited := 0,
    report := { holder := 2, holders := 2, ahead := 0, mode := .shared }, index := 3, expiryRaised := false }

/-- An entry with these holds in slots 0 up. -/
def entryOf (name : Name) (m : Mode) (holds : List Holder) (ws : List Waiter) (u : Option PendingUpgrade) : LockEntry :=
  { name := name, mode := m, waiters := ws, upgrade := u, contention := 3,
    slots := (holds.zip Config.allSlots).foldl (fun v p => v.set p.2 (some p.1)) (Vector.replicate 8 none) }

/-- A resident entry, with the capacities and accounts that it takes. -/
def put (s : State) (e : LockEntry) : State :=
  let s1 := { s.storeEntry e with freeEntries := s.freeEntries - 1, poolFree := s.poolFree - e.waiters.length }
  let s2 := e.holders.foldl (fun t p => t.appendHold p.2.client { name := e.name, token := p.2.token }) s1
  let s3 := e.waiters.foldl (fun t w => t.addWait w.client) s2
  match e.upgrade with
  | some u => s3.addWait u.client
  | none => s3

def acquireOf (name mode priority lease wait tag : Nat) : Record :=
  bytes [(0, 1, 0x01), (4, 4, tag), (8, 4, name), (12, 1, mode), (13, 1, priority), (14, 2, lease), (16, 2, wait)]

/-- A TRY_ACQUIRE_SET of positions, with the mode bits of byte 12. -/
def setOf (names : List Nat) (modes lease tag : Nat) : Record :=
  bytes ([(0, 1, 0x02), (4, 4, tag), (8, 1, names.length), (10, 2, lease), (12, 1, modes)] ++
    names.zipIdx.map (fun p => (16 + 4 * p.2, 4, p.1)))

/-- A record of opcode `op` that names a hold: RELEASE, RENEW (with its lease), DOWNGRADE, UPGRADE (with its wait). -/
def holdOf (op name token lease wait tag : Nat) : Record :=
  bytes [(0, 1, op), (4, 4, tag), (8, 4, name), (12, 8, token), (20, 2, lease), (22, 2, wait)]

/-- A record of opcode `op` that names a target tag, a client or a period in its first bytes. -/
def shortOf (op target tag : Nat) : Record := bytes [(0, 1, op), (4, 4, tag), (8, 4, target)]

def watchOf (code mask events tag : Nat) : Record :=
  bytes [(0, 1, 0x08), (4, 4, tag), (8, 4, code), (12, 4, mask), (16, 1, events)]

def configOf (client lease holds waits base size : Nat) : Record :=
  bytes [(0, 1, 0x40), (4, 4, 0x77), (8, 1, client), (9, 1, 4), (10, 2, lease), (12, 2, holds), (14, 1, waits), (16, 8, base),
    (24, 8, 0x9000), (32, 2, size), (34, 2, 64), (36, 4, 0), (40, 4, 0)]

def limitsOf (warning restricted : Nat) : Record :=
  bytes [(0, 1, 0x4A), (4, 4, 0x77), (8, 1, warning), (9, 1, restricted), (10, 2, 50), (12, 2, 60), (14, 2, 70)]

/-! ## WellFormed: one ill-formed term for each check -/

theorem test_wellFormed_client0 : (Instr.teardownEnd 0).wellFormed = false := by decide +kernel
theorem test_wellFormed_name0 : (Instr.tickVisitEntry 0).wellFormed = false := by decide +kernel
theorem test_wellFormed_token0 : (Instr.leaseExpiry 300 0).wellFormed = false := by decide +kernel
theorem test_wellFormed_charge3 : (Instr.standingCharge 5 3).wellFormed = false := by decide +kernel
theorem test_wellFormed_post_is_no_registerWrite : (Instr.registerWrite 0x040 0).wellFormed = false := by decide +kernel

/-! ## Encodings (chapter 11) -/

/-- The ACQUIRE of chapter 11's worked example, byte by byte. -/
theorem test_decode_acquire :
    let r := bytes [(0, 1, 0x01), (4, 1, 0x2F), (8, 1, 0x04), (9, 1, 0xA1), (12, 1, 0x01), (13, 1, 0x02), (14, 1, 0x2C),
      (15, 1, 0x01), (16, 1, 0xF4), (17, 1, 0x01)]
    Decode.opcode r = some .acquire ∧ Decode.tag r = 0x2F ∧
      Decode.acquireFields r = some { name := 41220, mode := .exclusive, priority := 2, lease := 300, wait := 500 } := by
  decide +kernel

/-- The POST word of the same example. -/
theorem test_decode_post : Decode.registerWrite 0x040 0x0400000A = .submit 4 10 := by decide +kernel

/-- The GRANTED response of the same example, and the phase of the first pass. -/
theorem test_encode_granted :
    let report : Report := { holder := 7, holders := 2, ahead := 1, mode := .shared }
    let response : Response := { status := .granted, tag := 0x2F, index := 10, body := .granted 9001 300 140 (some report) 1 }
    completionBytes { slot := 3, phase := true, lost := 0, record := .response response } =
      BitVec.ofNat 256 (packFields [(1, 1, 1), (2, 1, 1), (6, 1, 10), (8, 1, 0x2F), (12, 1, 0x29), (13, 1, 0x23),
      (20, 1, 0x2C), (21, 1, 0x01), (22, 1, 140), (24, 1, 7), (25, 1, 2), (26, 1, 1), (28, 1, 1), (29, 1, 1)]) := by
  decide +kernel

/-- Opcodes 0x00, 0x0B and 0x4B are not in the table (R153), nor is a mode byte of 2 or a priority of 8. -/
theorem test_decode_outside_the_table :
    [0x00, 0x0B, 0x4B].map Decode.opcodeOfNat = [none, none, none] ∧
      Decode.acquireFields (acquireOf 900 2 0 0 0 0) = none ∧ Decode.acquireFields (acquireOf 900 0 8 0 0 0) = none ∧
      Decode.acquireFields (acquireOf 0 0 0 0 0 0) = none := by decide +kernel

/-- ENGINE STATUS of an engine halted on TOKEN_SPACE, and the two capture words of a latched fault (11.3). -/
theorem test_register_reads :
    let s := { base with engine := .halted, haltCause := .tokenSpace,
                         capture := { latch := some { client := 9, ring := .completion, index := 12, kind := .linkTimeout },
                                      overflow := 3 } }
    s.readRegister 0x008 = 0x32 ∧ s.readRegister 0x080 = 0x80032109 ∧ s.readRegister 0x084 = 12 := by decide +kernel

/-! ## Locks: the worked examples of chapters 1 to 5 -/

/-- Chapter 1: lock 41,220, SHARED by clients 3 and 5 under tokens 41 and 42, client 7 waiting for EXCLUSIVE. -/
def busyLock : LockEntry := entryOf 41220 .shared [hold 3 41 .shared, hold 5 42 .shared] [waits 7 .exclusive 4] none

/-- Chapter 1, event 1. -/
theorem test_acquire_absent :
    let t := after (.acquire 3) (hand base 3 (acquireOf 41220 0 0 0 0 0x11))
    t.nextToken = 42 ∧ t.freeEntries = 4095 ∧ (t.account 3).holds = [{ name := 41220, token := 41 }] ∧
      t.watchEvents.map (fun b => b.map (fun e => e.kind)) = [[.granted]] ∧
      handedTo t 3 = [said .granted 0x11 (.granted 41 1000 0 none 1)] := by decide +kernel

/-- Chapter 2, request 2: BUSY, one waiter ahead, the contention count from 3 to 4. -/
theorem test_acquire_busy :
    let e := entryOf 900 .shared [hold 2 10 .shared, hold 4 11 .shared] [waits 9 .exclusive 3] none
    let t := after (.acquire 6) (hand (put base e) 6 (acquireOf 900 0 4 0 0 0x61))
    handedTo t 6 = [said .busy 0x61 (.busy { holder := 2, holders := 2, ahead := 1, mode := .shared } 0)] ∧
      (t.entry? 900).map (fun d => d.contention) = some 4 := by decide +kernel

/-- Chapter 2, the set's first attempt: position 2 blocks, the report is of lock 72. -/
theorem test_set_busy :
    let s := put (put base (entryOf 71 .shared [hold 5 1 .shared] [] none)) (entryOf 72 .shared [hold 6 2 .shared] [] none)
    let t := after (.tryAcquireSet 8) (hand s 8 (setOf [70, 71, 72, 73] 0b0101 0 0xB0))
    handedTo t 8 = [said .busy 0xB0 (.busy { holder := 6, holders := 1, ahead := 0, mode := .shared } 4)] ∧
      t.table.map (fun d => (d.name, d.contention)) = [(71, 3), (72, 4)] := by decide +kernel

/-- The set's second attempt: tokens in position order, one response with the first and the count. -/
theorem test_set_granted :
    let s := put base (entryOf 71 .shared [hold 5 1 .shared] [] none)
    let t := after (.tryAcquireSet 8) (hand s 8 (setOf [70, 71, 72, 73] 0b0101 400 0xB0))
    handedTo t 8 = [said .granted 0xB0 (.granted 41 400 0 none 4)] ∧ t.nextToken = 45 ∧
      (t.account 8).holds = [{ name := 70, token := 41 }, { name := 71, token := 42 }, { name := 72, token := 43 },
        { name := 73, token := 44 }] ∧
      t.table.map (fun d => (d.name, d.mode, d.holderCount)) =
        [(70, .exclusive, 1), (71, .shared, 2), (72, .exclusive, 1), (73, .shared, 1)] := by decide +kernel

/-- Chapter 1, event 4: slot 1 stays slot 1, and the EXCLUSIVE head is not granted. -/
theorem test_release_keeps_slots :
    let t := after (.release 3) (hand (put base busyLock) 3 (holdOf 0x03 41220 41 0 0 1))
    (t.entry? 41220).map (fun d => (d.holders.map Prod.fst, d.waiters.length)) = some ([1], 1) ∧ (t.account 3).holds = [] ∧
      t.standingQueue = [.credit 3] := by decide +kernel

/-- Chapter 3, event 6: with a pending upgrade whose holder is not alone, the pass looks at no waiter. -/
theorem test_release_stops_at_the_upgrade :
    let e := entryOf 5000 .shared [hold 1 100 .shared, hold 2 101 .shared, hold 3 102 .shared] [waits 9 .shared 4]
      (some (upgrading 1 0))
    let t := after (.release 3) (hand (put base e) 3 (holdOf 0x03 5000 102 0 0 1))
    (t.entry? 5000).map (fun d => (d.holderCount, d.waiters.length, d.upgrade.isSome)) = some (2, 1, true) := by decide +kernel

/-- R67: the lease of a RENEW with 0 is the client default, and a raised expiry is withdrawn. -/
theorem test_renew :
    let e := entryOf 300 .shared [{ hold 6 901 .shared with lease := 1, expiryRaised := true }] [] none
    let t := after (.renew 6) (hand (put base e) 6 (holdOf 0x04 300 901 0 0 1))
    (t.entry? 300).map (fun d => d.holders.map (fun p => (p.2.lease, p.2.expiryRaised))) = some [(1000, false)] ∧
      handedTo t 6 = [said .ok 1 (.renewed 1000)] := by decide +kernel

/-- Chapter 4, the upgrade example, event 1. -/
theorem test_upgrade_pends :
    let e := entryOf 610 .shared [hold 2 50 .shared, hold 3 51 .shared] [] none
    let t := after (.upgrade 2) (hand (put base e) 2 (holdOf 0x05 610 50 0 100 0x21))
    (t.entry? 610).map (fun d => (d.upgrade.map (fun u => (u.slot, u.wait, u.report.ahead)), d.contention)) =
      some (some (0, some 100, 0), 4) ∧ (t.account 2).waits = 1 ∧ handedTo t 2 = [] := by decide +kernel

/-- R68: after a downgrade the SHARED waiter at the head joins. -/
theorem test_downgrade_lets_the_head_in :
    let e := entryOf 300 .exclusive [hold 6 901 .exclusive] [waits 7 .shared 4] none
    let t := after (.downgrade 6) (hand (put base e) 6 (holdOf 0x06 300 901 0 0 1))
    (t.entry? 300).map (fun d => (d.mode, d.holders.map (fun p => p.2.token), d.waiters)) = some (.shared, [901, 41], []) := by
  decide +kernel

/-- Chapter 4, the lost token, events 2 and 7: STALE without a charge while it is remembered, UNKNOWN_TOKEN and 4 after. -/
theorem test_lost_token :
    let s := hand (base.setAccount 6 { Account.reset with expired := [920, 912, 910, 905] }) 6 (holdOf 0x03 300 901 0 0 1)
    let t := hand (base.setAccount 6 { Account.reset with expired := [901] }) 6 (holdOf 0x03 300 901 0 0 1)
    (handedTo (after (.release 6) s) 6, (after (.release 6) s).standingQueue) =
        ([said .unknownToken 1 .empty], [.charge 6 4]) ∧
      (handedTo (after (.release 6) t) 6, (after (.release 6) t).standingQueue) = ([said .stale 1 .empty], []) := by
  decide +kernel

/-- Chapter 3, event 5 of the second example: the CANCEL of the head, its target's response before its own. -/
theorem test_cancel :
    let e := entryOf 77 .shared [hold 4 40 .shared] [waits 5 .exclusive 5] none
    let t := after (.cancel 5) (hand (put base e) 5 (shortOf 0x07 9 3))
    handedTo t 5 = [.response { status := .cancelled .byRequest, tag := 9, index := 3, body := .empty }, said .ok 3 .empty] ∧
      t.poolFree = 2048 ∧ (t.account 5).waits = 0 := by decide +kernel

/-- Chapter 4, the lost token, event 5: a revocation charges nothing, and its token heads the list. -/
theorem test_forceRelease :
    let s := (put base (entryOf 330 .exclusive [hold 6 912 .exclusive] [] none))
    let t := after (.forceRelease 0) (hand s 0 (holdOf 0x46 330 912 0 0 1))
    (t.account 6).expired = [912] ∧ t.standingQueue = [] ∧ t.entry? 330 = none ∧
      handedTo t 6 = [.notice (.revoked 330 912 7)] ∧ handedTo t 0 = [said .ok 1 .empty] := by decide +kernel

/-- Chapter 1, the query after event 3. -/
theorem test_queryLock :
    handedTo (after (.queryLock 0) (hand (put base busyLock) 0 (shortOf 0x47 41220 1))) 0 =
      [said .ok 1 (.lock { mode := .shared, holders := 2, firstHolder := 3, waiters := 1, headClient := 7,
                           headMode := .exclusive, upgradePending := false, contention := 3 })] := by decide +kernel

/-- Chapter 5: the visit that finds lease 1 raises the expiry, counts the waiter, and takes nothing away. -/
theorem test_tick_and_visit :
    let e := entryOf 2400 .exclusive [{ hold 9 3300 .exclusive with lease := 1 }] [waits 8 .exclusive 4] none
    let t := after (.tickVisitEntry 2400) (after .tick (put base e))
    (t.entry? 2400).map (fun d => (d.holders.map (fun p => (p.2.lease, p.2.expiryRaised)),
      d.waiters.map (fun w => (w.wait, w.waited)))) = some ([(1, true)], [(some 199, 13)]) ∧
      t.clock.sweep.entries = [] ∧ t.sweeping = true := by decide +kernel

/-- Chapter 5, order 3: the expiry, in the order of R84. -/
theorem test_leaseExpiry :
    let e := entryOf 2400 .exclusive [{ hold 9 3300 .exclusive with lease := 1, expiryRaised := true }]
      [{ waits 8 .exclusive 4 with waited := 13 }] none
    let t := after (.leaseExpiry 2400 3300) (put base e)
    (t.account 9).expired = [3300] ∧ t.standingQueue = [.charge 9 16] ∧
      t.watchEvents.map (fun b => b.map (fun v => v.kind)) = [[.expired, .granted]] ∧
      handedTo t 9 = [.notice (.expired 2400 3300 7)] ∧
      (t.entry? 2400).map (fun d => d.holders.map (fun p => (p.2.client, p.2.token))) = some [(8, 41)] := by decide +kernel

/-- R57: a timeout reports the full count of waited ticks. -/
theorem test_waitExpiry :
    let w := { waits 8 .exclusive 4 with wait := some 1, expiryRaised := true }
    let t := after (.waitExpiry 2400 8 9) (put base (entryOf 2400 .exclusive [hold 9 3300 .exclusive] [w] none))
    handedTo t 8 = [.response { status := .timeout, tag := 9, index := 3, body := .timeout 13 w.report }] ∧
      t.poolFree = 2048 := by decide +kernel

/-- R73: the upgrade ends, its holder keeps the SHARED hold, and the pass lets the head in. -/
theorem test_upgradeWaitExpiry :
    let e := entryOf 610 .shared [hold 2 50 .shared, hold 3 51 .shared] [waits 4 .shared 4]
      (some { upgrading 2 0 with wait := some 1, expiryRaised := true })
    let t := after (.upgradeWaitExpiry 610 0x21) (put base e)
    (t.entry? 610).map (fun d => (d.upgrade, d.holders.map (fun p => (p.2.client, p.2.mode)))) =
      some (none, [(2, .shared), (3, .shared), (4, .shared)]) := by decide +kernel

/-! ## Watches and standing (chapters 6 and 7) -/

/-- Chapter 6: W1 covers 0x1200, and the window does not admit 131,072. -/
theorem test_watchEventMatch :
    let c := { active with config := { active.config with windowMask := 0xFFFF0000 } }
    let s := { base.setClient 2 c with
      watches := [{ owner := 2, tag := 1, code := 0x1000, mask := 0xFFFFF000, events := 0b10010 },
                  { owner := 2, tag := 2, code := 0, mask := 0, events := 0b00001 }],
      watchEvents := [[{ kind := .released, name := 0x1200, client := 3, token := 8, mode := .exclusive }],
                      [{ kind := .granted, name := 0x20000, client := 8, token := 9, mode := .exclusive }]] }
    handedTo (after (.watchEventMatch 0x20000) (after (.watchEventMatch 0x1200) s)) 2 =
      [.notice (.watch 1 .released 0x1200 3 8 .exclusive)] := by decide +kernel

theorem test_watch_and_unwatch :
    let t := after (.watch 2) (hand base 2 (watchOf 0x1000 0xFFFFF000 0b10010 1))
    t.watches = [{ owner := 2, tag := 1, code := 0x1000, mask := 0xFFFFF000, events := 0b10010 }] ∧
      (after (.unwatch 2) (hand t 2 (shortOf 0x09 1 4))).watches = [] := by decide +kernel

/-- R106, R107: 250 and 16 make 255, and isolate an ACTIVE client. -/
theorem test_charge_isolates :
    let s := { base.setStanding 5 { score := 250, grade := .restricted } with standingQueue := [.charge 5 16] }
    let t := after (.standingCharge 5 16) s
    (t.standing 5).score = 255 ∧ (t.client 5).state = .isolated ∧ (t.client 5).teardown.isSome ∧ t.standingQueue = [] := by
  decide +kernel

/-- Chapter 4, the lost token, event 4: 52 and 16 make 68, WARNED, and the notice. -/
theorem test_charge_warns :
    let s := { base.setStanding 6 { score := 52, grade := .good } with standingQueue := [.charge 6 16] }
    let t := after (.standingCharge 6 16) s
    t.standing 6 = { score := 68, grade := .warned } ∧ handedTo t 6 = [.notice (.standing .good .warned 68)] := by decide +kernel

theorem test_credit_stays_at_255 :
    let s := { base.setStanding 6 { score := 255, grade := .restricted } with standingQueue := [.credit 6] }
    (after (.standingCredit 6) s).standing 6 = { score := 255, grade := .restricted } := by decide +kernel

theorem test_setLimits :
    let t := after (.setLimits 0) (hand (base.setStanding 6 { score := 50, grade := .good }) 0 (limitsOf 40 200))
    (t.standing 6).grade = .warned ∧ t.limits = { warning := 40, restricted := 200, recovery := 50, leaseCap := 60, waitCap := 70 }
      := by decide +kernel

theorem test_setStanding :
    let s := base.setClient 6 { active with state := .disabled, recoveryPending := true }
    let t := after (.setStanding 0) (hand s 0 (bytes [(0, 1, 0x45), (8, 1, 6), (9, 1, 160)]))
    t.standing 6 = { score := 160, grade := .restricted } ∧ (t.client 6).recoveryPending = false := by decide +kernel

/-- R86, R110: the visit that finds 1. -/
theorem test_recovery :
    let s := (base.setClient 6 { active with state := .recovering }).setStanding 6 { score := 255, grade := .restricted }
    let s1 := { s with clock := { s.clock with sweep := { entries := [], clients := [6] } } }
    ((after (.recoveryVisit 6) (s1.setRecovery 6 2)).recovery 6, (after (.recoveryVisit 6) (s1.setRecovery 6 2)).clock.sweep) =
        (1, Sweep.empty) ∧
      ((after (.recoveryComplete 6) (s1.setRecovery 6 1)).client 6).state = .active ∧
      (after (.recoveryComplete 6) (s1.setRecovery 6 1)).standing 6 = Standing.reset := by decide +kernel

/-! ## Queue pairs (chapter 8) -/

/-- R120: the path goes to the next client after the round-robin position, and wraps from 31 to 1. -/
theorem test_fetchGrant :
    let s := after (.submit 2 1) (after (.submit 5 1) base)
    let t := after .fetchGrant { s with roundRobin := 2 }
    t.roundRobin = 5 ∧ (t.ring 5).fetch = .fetching 0 false ∧ (t.ring 5).reserved = 1 ∧ t.linkOut = [.readBegin 5 0x60000] ∧
      (after .fetchGrant { s with roundRobin := 5 }).roundRobin = 2 := by decide +kernel

theorem test_fetchReadReturn :
    let s := base.setRing 5 { base.ring 5 with fetch := .fetching 63 false, reserved := 1, sqConsumer := 63, sqPosted := 1 }
    let t := after (.fetchReadReturn ⟨5, 0⟩ 7) s
    (t.ring 5).sqConsumer = 0 ∧ (t.ring 5).fetch = .inHand 7 := by decide +kernel

/-- R35, R121, R136: a client disabled and enabled again during a read has left ACTIVE, and the record is discarded. -/
theorem test_read_lost_by_disable :
    let s := base.setRing 5 { base.ring 5 with fetch := .fetching 63 false, reserved := 1, sqConsumer := 63, sqPosted := 1 }
    let t := after (.enableClient 0) (hand (after (.disableClient 0) (hand s 0 (shortOf 0x42 5 1))) 0 (shortOf 0x41 5 2))
    let u := after (.fetchReadReturn ⟨5, 0⟩ 7) t
    (t.client 5).state = .active ∧ (u.ring 5).fetch = .idle ∧ (u.ring 5).sqConsumer = 63 ∧ (u.ring 5).reserved = 0 := by
  decide +kernel

/-- R118, R125: at the wrap the phase flips; the armed flag sends one message. -/
theorem test_completionWriteEnd :
    let w : WriteInFlight := { slot := 63, phase := true, lost := 0, record := said .ok 1 .empty }
    let s := base.setRing 5 { base.ring 5 with cqProducer := 63, reserved := 1, armed := true, writing := some w }
    let t := after (.completionWriteEnd ⟨5, 0⟩) s
    (t.ring 5).cqProducer = 0 ∧ (t.ring 5).phase = false ∧ (t.ring 5).occupied = 1 ∧ (t.ring 5).reserved = 0 ∧
      (t.ring 5).armed = false ∧ t.linkOut = [.interrupt 5 5] := by decide +kernel

/-- R117: a head in the allowed range frees its slots, and one outside it costs 2. -/
theorem test_consumed :
    let s := base.setRing 5 { base.ring 5 with consumedHead := 60, occupied := 6, cqProducer := 2 }
    ((after (.consumed 5 2) s).ring 5).occupied = 0 ∧ (after (.consumed 5 3) s).standingQueue = [.charge 5 2] := by
  decide +kernel

theorem test_arm_and_undefined_kind :
    ((after (.arm 5 0) base).ring 5).armed = true ∧ after (.postUndefinedKind 5 1) base = base ∧
      after (.submit 20 1) base = base ∧ after (.submit 5 64) base = base := by decide +kernel

theorem test_nop_and_unknown_opcode :
    handedTo (after (.nop 5) (hand base 5 (shortOf 0x0A 0 3))) 5 = [said .ok 3 .empty] ∧
      handedTo (after (.unknownOpcode 5) (hand base 5 (shortOf 0x0B 0 3))) 5 = [said .badRequest 3 .empty] := by decide +kernel

/-! ## Lifecycle, faults and engine control (chapters 9 to 11) -/

theorem test_configure_and_swap :
    let t := after (.configureClient 0) (hand base 0 (configOf 12 0 0 0 0x8000 64))
    let u := after (.configureClientRingSwap 12) t
    (t.client 12).state = .disabled ∧ handedTo t 0 = [] ∧ (u.ring 12).place.sqBase = 0x8000 ∧
      ((u.client 12).config.holdQuota, (u.client 12).config.waitQuota, (u.client 12).config.defaultLease) = (32, 8, 1000) ∧
      handedTo u 0 = [said .ok 0x77 .empty] := by decide +kernel

theorem test_enable_and_disable :
    let t := after (.disableClient 0) (hand base 0 (shortOf 0x42 5 1))
    (t.client 5).state = .disabled ∧
      ((after (.enableClient 0) (hand t 0 (shortOf 0x41 5 2))).client 5).state = .active := by decide +kernel

theorem test_reinstate_and_query :
    let s := base.setClient 5 { active with state := .isolated }
    let t := after (.reinstateClient 0) (hand s 0 (shortOf 0x44 5 1))
    (t.client 5).state = .recovering ∧ t.recovery 5 = 200 ∧
      handedTo (after (.queryClient 0) (hand base 0 (shortOf 0x48 5 1))) 0 =
        [said .ok 1 (.client { state := .active, score := 0, grade := .good, teardown := false, holds := 0, waits := 0,
                               watches := 0, reservations := 0, lost := 0, recovery := 0 })] := by decide +kernel

theorem test_setTimebase :
    let t := after (.setTimebase 0) (hand base 0 (bytes [(0, 1, 0x49), (8, 2, 500)]))
    (t.clock.period, t.clock.nextPeriod, (after .tick t).clock.period) = (100, 500, 500) := by decide +kernel

/-- Two ticks beside a sweep in progress: the second is owed, and starts when no visit is left. -/
theorem test_owed_tick :
    let s := { base with clock := { base.clock with owed := [{ entries := [7], clients := [] }] } }
    (after .owedTickSweep s).clock.sweep.entries = [7] ∧ (after .owedTickSweep s).clock.owed = [] := by decide +kernel

/-- A reset teardown from its command to its end: the hold is revoked with nothing written to the client, then the OK. -/
theorem test_reset_teardown :
    let s := put base (entryOf 330 .exclusive [hold 6 912 .exclusive] [] none)
    let t := after (.resetClient 0) (hand s 0 (shortOf 0x43 6 1))
    let u := after (.teardownEnd 6) (after (.teardownRemoveWatches 6) (after (.teardownRevokeHold 6) t))
    (t.client 6).state = .disabled ∧ after (.teardownEnd 6) t = t ∧ u.entry? 330 = none ∧ (u.client 6).teardown = none ∧
      handedTo u 6 = [] ∧ handedTo u 0 = [said .ok 1 .empty] := by decide +kernel

theorem test_teardown_waits :
    let d := { active with state := .isolated, teardown := some { cause := .isolation, waiting := none } }
    let e := entryOf 77 .shared [hold 4 40 .shared, hold 5 41 .shared] [waits 6 .exclusive 5] (some (upgrading 4 0))
    let t := after (.teardownRemoveWaiter 6 77) ((put base e).setClient 6 d)
    let u := after (.teardownRemoveUpgrade 4 77) ((put base e).setClient 4 d)
    (t.entry? 77).map (fun x => x.waiters) = some [] ∧ (u.entry? 77).map (fun x => x.upgrade) = some none := by decide +kernel

/-- R146: the failed write of a client halts it, and the fault goes to the capture and to the control queue. -/
theorem test_client_faults :
    let w : WriteInFlight := { slot := 12, phase := true, lost := 0, record := said .ok 1 .empty }
    let s := base.setRing 9 { base.ring 9 with cqProducer := 12, reserved := 1, writing := some w }
    let t := after (.clientCompletionWriteFault ⟨9, 0⟩ .linkTimeout) s
    let u := after (.clientSubmissionReadFault ⟨9, 0⟩ .address) (base.setRing 9 { base.ring 9 with fetch := .fetching 0 false, reserved := 1 })
    (t.client 9).state = .halted ∧ t.capture.latch = some { client := 9, ring := .completion, index := 12, kind := .linkTimeout } ∧
      handedTo t 0 = [.notice (.clientFault 9 .completion .linkTimeout 12)] ∧ (t.ring 9).cqProducer = 12 ∧
      (u.client 9).state = .halted ∧ (u.ring 9).reserved = 0 := by decide +kernel

theorem test_control_faults :
    let s := base.setRing 0 { base.ring 0 with fetch := .fetching 0 false, reserved := 1 }
    let w : WriteInFlight := { slot := 12, phase := true, lost := 0, record := said .ok 1 .empty }
    (after (.controlReadFault ⟨.address, 0⟩) s).haltCause = .controlReadFault ∧
      (after (.controlWriteFault ⟨.address, 0⟩) (base.setRing 0 { base.ring 0 with reserved := 1, writing := some w })).haltCause =
        .controlWriteFault := by decide +kernel

theorem test_start :
    let s := after (.registerWrite 0x020 0x00400040) (after (.registerWrite 0x018 0x2000) (after (.registerWrite 0x010 0x1000)
      State.reset))
    let t := after .start s
    t.engine = .running ∧ t.ring 0 = RingContext.reset { sqBase := 0x1000, sqSize := 64, cqBase := 0x2000, cqSize := 64 } ∧
      (after .start State.reset).readRegister 0x008 = 0x100 := by decide +kernel

theorem test_resets_and_clear :
    let s := { base with capture := { latch := none, overflow := 3 }, regs := { base.regs with sizes := 0x00400040 } }
    (after (.softReset false) s).capture = s.capture ∧ (after (.softReset false) s).regs = s.regs ∧
      after .powerOn s = { State.reset with epoch := 1 } ∧ after .hostLinkReset s = { State.reset with epoch := 1 } ∧ (after (.faultClear 5) s).capture.overflow = 0 := by
  decide +kernel

/-- R151: the late report of a read that a reset abandoned is ignored, though a new read of the same ring is in flight; its own
fault is taken. -/
theorem test_late_report_is_ignored :
    let s := after (.softReset false) (base.setRing 0 { base.ring 0 with fetch := .fetching 0 false, reserved := 1 })
    let t := { s with engine := .running }.setRing 0 { base.ring 0 with fetch := .fetching 3 false, reserved := 1 }
    after (.controlReadFault ⟨.address, 0⟩) t = t ∧ after (.fetchReadReturn ⟨0, 0⟩ 7) t = t ∧
      (after (.controlReadFault ⟨.address, 1⟩) t).haltCause = .controlReadFault := by decide +kernel

/-- The worked words of 11.3: a full capture, and ENGINE STATUS of a TOKEN_SPACE halt. -/
theorem test_capture_words :
    let full : Capture := { latch := some { client := 7, ring := .completion, index := 300, kind := .linkTimeout }, overflow := 2 }
    captureWord0 full = 0x80022107 ∧ captureWord1 full = 300 ∧
      { base with engine := .halted, haltCause := .tokenSpace }.readRegister 0x008 = 0x032 := by decide +kernel

/-- R119, R135: a client enabled while its ring swap waits is fetched at once; its reservation stays through the swap, and the read
of the old ring is discarded when it returns (log entry 10), or its fault reports its own index (R146). -/
theorem test_swap_under_a_read :
    let s := (base.setClient 5 { active with swap := some { place := ringsOf 9, old := active.config, waiting := [] } }).setRing 5
      { base.ring 5 with sqConsumer := 3, sqPosted := 4 }
    let t := after .fetchGrant s
    let u := after (.configureClientRingSwap 5) t
    (t.ring 5).fetch = .fetching 3 false ∧
      u.ring 5 = { RingContext.reset (ringsOf 9) with reserved := 1, fetch := .fetching 3 true } ∧
      (after (.fetchReadReturn ⟨5, 0⟩ 7) u).ring 5 = RingContext.reset (ringsOf 9) ∧
      (after (.clientSubmissionReadFault ⟨5, 0⟩ .address) u).capture.latch =
        some { client := 5, ring := .submission, index := 3, kind := .address } := by decide +kernel

/-! ## Witnesses: states and operands that meet the hypotheses of the Obligations -/

theorem ready_of {s : State} {q : ClientId} {op : Decode.Opcode} {r : Record}
    (h : s.engine = .running ∧ (s.ring q).fetch = .inHand r ∧ Decode.opcode r = some op ∧ s.nextToken ≤ 2 ^ 64) :
    Ready s q op r := ⟨h.1, h.2.1, (opcode_eq_some_iff r op).mp h.2.2.1, h.2.2.2⟩

theorem at_entry {s : State} {n : Name} {P : LockEntry → Prop} (e : LockEntry) (he : s.entry? n = some e) (hp : P e) :
    ∀ d, s.entry? n = some d → P d := by
  intro d hd; rw [he] at hd; cases hd; exact hp

theorem at_absent {s : State} {n : Name} {P : LockEntry → Prop} (he : s.entry? n = none) : ∀ d, s.entry? n = some d → P d := by
  intro d hd; rw [he] at hd; cases hd

theorem without_of {e : LockEntry} {c : ClientId}
    (h : (∀ i : SlotId, ∀ x ∈ e.slots[i], x.client ≠ c) ∧ ∀ w ∈ e.waiters, w.client ≠ c) : e.without c :=
  ⟨fun i x hx => h.1 i x hx, h.2⟩

theorem holdsNot_of {s : State} {c : ClientId} {name : Name} {token : Token} (e : LockEntry) (he : s.entry? name = some e)
    (h : ∀ i : SlotId, ∀ x ∈ e.slots[i], ¬ (x.client = c ∧ x.token = token)) : s.holdsNot c name token := by
  intro d i x hd hx; rw [he] at hd; cases hd; exact h i x hx

theorem holdsAt_of {s : State} {c : ClientId} {name : Name} {token : Token} {e : LockEntry} {i : SlotId} {x : Holder}
    (h : s.entry? name = some e ∧ e.slots[i] = some x ∧ x.client = c ∧ x.token = token ∧
      ∀ j : SlotId, j < i → ∀ k ∈ e.slots[j], ¬ (k.client = c ∧ k.token = token)) : s.holdsAt c name token e i x :=
  ⟨h.1, h.2.1, h.2.2.1, h.2.2.2.1, fun j k hj hk => h.2.2.2.2 j hj k hk⟩

theorem admitted {s : State} {q : ClientId} {names : List Name} (h : names.all (fun n => (s.client q).admits n) = true) :
    s.windowAdmits q names := (all_admits_iff s q names).mp h

theorem denied {s : State} {q : ClientId} {names : List Name} (h : names.all (fun n => (s.client q).admits n) = false) :
    ¬ s.windowAdmits q names := fun k => by rw [(all_admits_iff s q names).mpr k] at h; cases h

/-- A Bool form of the laws of one entry, for small entries. -/
theorem lawful_of {e : LockEntry}
    (h : 1 ≤ e.holds ∧ (e.mode = .exclusive → e.holds = 1) ∧ (∀ i : SlotId, ∀ x ∈ e.slots[i], x.mode = e.mode) ∧
      (∀ i j : SlotId, ∀ x ∈ e.slots[i], ∀ y ∈ e.slots[j], x.client = y.client → i = j) ∧
      (∀ i : SlotId, ∀ x ∈ e.slots[i], ∀ w ∈ e.waiters, w.client ≠ x.client) ∧ (e.waiters.map (fun w => w.client)).Nodup ∧
      e.waiters.Pairwise (fun a b => a.priority ≤ b.priority) ∧
      (∀ u ∈ e.upgrade, e.mode = .shared ∧ 2 ≤ e.holds ∧ ((e.slots[u.slot]).any (fun x => x.client = u.client)) = true)) :
    e.Lawful where
  held := h.1
  alone := h.2.1
  modes i x hx := h.2.2.1 i x hx
  oneHold i j x y hx hy := h.2.2.2.1 i j x hx y hy
  holdOrWait i x hx := h.2.2.2.2.1 i x hx
  oneWait := h.2.2.2.2.2.1
  ordered := h.2.2.2.2.2.2.1
  upgrade u hu := by
    obtain ⟨a, b, c⟩ := h.2.2.2.2.2.2.2 u hu
    refine ⟨a, b, ?_⟩
    rw [Option.any_eq_true] at c
    obtain ⟨x, hx, hc⟩ := c
    exact ⟨x, hx, by simpa using hc⟩

/-- An EXCLUSIVE lock: client 4 holds it, and clients 5 and 6 wait. -/
def keptLock : LockEntry := entryOf 77 .exclusive [hold 4 40 .exclusive] [waits 5 .shared 2, waits 6 .exclusive 5] none

/-- A SHARED lock whose holder in slot 0, client 1, waits for its upgrade, and behind it client 9 for EXCLUSIVE. -/
def upgradedLock : LockEntry :=
  entryOf 610 .shared [hold 1 50 .shared, hold 2 51 .shared] [waits 9 .exclusive 4] (some (upgrading 1 0))

/-- A SHARED lock with room and nobody waiting. -/
def openLock : LockEntry := entryOf 71 .shared [hold 5 1 .shared] [] none

/-- A lock of one EXCLUSIVE holder. -/
def soleLock : LockEntry := entryOf 330 .exclusive [hold 6 912 .exclusive] [] none

/-- The state in which they stand together. -/
def locks : State := put (put (put (put base openLock) keptLock) soleLock) upgradedLock

theorem keptLock_lawful : keptLock.Lawful := lawful_of (by decide +kernel)
theorem upgradedLock_lawful : upgradedLock.Lawful := lawful_of (by decide +kernel)

theorem locks_lawful : TableLaw locks where
  names := by decide +kernel
  entries := by
    have h : locks.table = [openLock, keptLock, soleLock, upgradedLock] := by decide +kernel
    rw [h]; intro e he
    simp only [List.mem_cons, List.not_mem_nil, or_false] at he
    rcases he with rfl | rfl | rfl | rfl
    · exact lawful_of (by decide +kernel)
    · exact keptLock_lawful
    · exact lawful_of (by decide +kernel)
    · exact upgradedLock_lawful

/-! ### The block as a whole -/

theorem witness_StepRunsTheFrontCommand : { base with pending := [.tick] }.pending = .tick :: [] := rfl

/-- The lock events' state with a RELEASE in hand and in front. -/
def released : State := { hand locks 4 (holdOf 0x03 77 40 0 0 1) with pending := [.release 4] }

theorem step_next (s : State) (c : Instr) (rest : List Instr) (h : s.pending = c :: rest)
    (k : ∀ t, ∃ u, exec c t = .next u) : ∃ t, step s = .next t := by
  unfold step; rw [h]; exact k _

theorem released_table : released.table = locks.table := by unfold released hand State.setRing; rfl
theorem released_pending : released.pending = [.release 4] := by unfold released; rfl

theorem released_lawful : TableLaw released :=
  ⟨by rw [released_table]; exact locks_lawful.names, by rw [released_table]; exact locks_lawful.entries⟩

theorem released_steps : ∃ t, step released = .next t :=
  step_next _ (.release 4) [] released_pending (fun _ => ⟨_, rfl⟩)

/-- A response whose write is in flight in slot 63. -/
def written : WriteInFlight := { slot := 63, phase := true, lost := 0, record := said .ok 1 .empty }

/-- HALTED, with reads in flight for clients 0 and 5 and writes in flight for clients 0 and 6. -/
def frozen : State :=
  (({ base with engine := .halted }.setRing 0 { base.ring 0 with fetch := .fetching 0 false, writing := some written }).setRing 5
    { base.ring 5 with fetch := .fetching 3 true }).setRing 6 { base.ring 6 with writing := some written }

theorem witness_SoftResetClearsEveryBlock : base.epoch ≠ (after (.softReset false) base).epoch := by decide +kernel

theorem witness_HaltedEngineIsFrozen :
    frozen.engine = .halted ∧ (∃ v, Instr.faultClear 7 = .faultClear v ∨ Instr.faultClear 7 = .registerWrite 0x088 v) ∧
    ((5 : ClientId) ≠ 0 ∧ ∃ left, (frozen.ring 5).fetch = .fetching 3 left) ∧
    ((6 : ClientId) ≠ 0 ∧ (frozen.ring 6).writing = some written) ∧
    (∃ left, (frozen.ring 0).fetch = .fetching 0 left) ∧ (frozen.ring 0).writing = some written ∧
    (¬ ((∃ b, Instr.tick = .softReset b) ∨ Instr.tick = .powerOn ∨ Instr.tick = .hostLinkReset ∨
        ∃ v, Instr.tick = .registerWrite 0x004 v ∧ v.getLsbD 1 = true) ∧
      ¬ (∃ v, Instr.tick = .faultClear v ∨ Instr.tick = .registerWrite 0x088 v) ∧
      ¬ ((∃ c kind, Instr.tick = .clientSubmissionReadFault ⟨c, frozen.epoch⟩ kind ∧ c ≠ 0 ∧ ∃ k left, (frozen.ring c).fetch = .fetching k left) ∨
        (∃ c kind, Instr.tick = .clientCompletionWriteFault ⟨c, frozen.epoch⟩ kind ∧ c ≠ 0 ∧ (frozen.ring c).writing ≠ none) ∨
        (∃ kind, Instr.tick = .controlReadFault ⟨kind, frozen.epoch⟩ ∧ ∃ k left, (frozen.ring 0).fetch = .fetching k left) ∨
        (∃ kind, Instr.tick = .controlWriteFault ⟨kind, frozen.epoch⟩ ∧ (frozen.ring 0).writing ≠ none))) :=
  ⟨rfl, ⟨7, .inl rfl⟩, ⟨by decide, true, by decide +kernel⟩, ⟨by decide, by decide +kernel⟩, ⟨false, by decide +kernel⟩,
    by decide +kernel, by simp, by simp, by simp⟩

theorem witness_EveryStepKeepsTheTableLaw : TableLaw released ∧ CapacityLaw released ∧ ∃ t, step released = .next t :=
  ⟨released_lawful, ⟨by decide +kernel, by decide +kernel⟩, released_steps⟩

/-- The same, with the tokens below the counter drawn, and a slot reserved for each wait and for the record in hand; and with
client 7 at its hold quota, client 8 at a score of 255 and ISOLATED, client 9 DISABLED with a ring swap waiting. -/
def settled : State :=
  let s := { put (put (put base openLock) keptLock) { upgradedLock with waiters := [waits 3 .exclusive 4] } with nextToken := 913 }
  let t := (put s (entryOf 330 .shared [hold 6 912 .shared, hold 7 911 .shared] [] none)).setClient 7
    { active with config := { active.config with holdQuota := 1 } }
  let u := (t.setClient 8 { active with state := .isolated }).setStanding 8 { score := 255, grade := .restricted }
  let v := (u.setClient 9 { active with
    state := .disabled, swap := some { place := ringsOf 40, old := active.config, waiting := [{ tag := 3, index := 9 }] } }).setRing 0
      { u.ring 0 with reserved := 1, occupied := 63 }
  let w := [(1 : ClientId), 3, 5, 6].foldl (fun x c => x.setRing c { x.ring c with reserved := (x.account c).waits }) v
  { hand w 4 (holdOf 0x03 77 40 0 0 1) with pending := [.release 4] }

theorem settled_steps : ∃ t, step settled = .next t := step_next _ (.release 4) [] rfl (fun _ => ⟨_, rfl⟩)

theorem settled_table : settled.table = [openLock, keptLock, entryOf 330 .shared [hold 6 912 .shared, hold 7 911 .shared] [] none,
    { upgradedLock with waiters := [waits 3 .exclusive 4] }] := by decide +kernel

theorem settled_lawful : TableLaw settled where
  names := by decide +kernel
  entries := by
    rw [settled_table]; intro e he
    simp only [List.mem_cons, List.not_mem_nil, or_false] at he
    rcases he with rfl | rfl | rfl | rfl
    · exact lawful_of (by decide +kernel)
    · exact keptLock_lawful
    · exact lawful_of (by decide +kernel)
    · exact lawful_of (by decide +kernel)

theorem settled_clients : ClientLaws settled where
  accounts := ⟨by decide +kernel, by decide +kernel, by decide +kernel, by decide +kernel, by decide +kernel⟩
  quotas := ⟨by decide +kernel, by decide +kernel⟩
  rings := ⟨by decide +kernel, by decide +kernel, by decide +kernel, by decide +kernel, by decide +kernel⟩
  idle := ⟨by decide +kernel⟩
  standing := ⟨by decide +kernel, by decide +kernel, by decide +kernel, by decide +kernel, by decide +kernel, by decide +kernel,
    by decide +kernel, by decide +kernel, by decide +kernel, by
      have h : settled.standingQueue = [] := by decide +kernel
      rw [h]; intro x hx; cases hx⟩

theorem witness_EveryStepKeepsTheSmallLaws :
    (TokenLaw released ∧ ControlLaw released ∧ WatchLaw released ∧ ∃ t, step released = .next t) ∧
    (TableLaw settled ∧ TokenLaw settled ∧ ControlLaw settled ∧ ClientLaws settled ∧ ∃ t, step settled = .next t) :=
  ⟨⟨⟨by decide +kernel, by decide +kernel⟩, ⟨by decide +kernel, by decide +kernel⟩,
      ⟨by decide +kernel, by decide +kernel, by decide +kernel⟩, released_steps⟩,
    settled_lawful, ⟨by decide +kernel, by decide +kernel⟩, ⟨by decide +kernel, by decide +kernel⟩, settled_clients, settled_steps⟩

/-- The state after a NOP's answer has begun its write. -/
def telling : State := { after (.nop 5) (hand base 5 (shortOf 0x0A 0 3)) with pending := [.tick] }

theorem witness_EveryStepKeepsTheLinkLaw : LinkLaw telling ∧ telling.linkOut ≠ [] ∧ ∃ t, step telling = .next t := by
  have h : telling.linkOut = [.writeBegin 5 (BitVec.ofNat 64 (65536 * 6 + 32768))
      (completionBytes { slot := 0, phase := true, lost := 0, record := said .ok 3 .empty })] := by decide +kernel
  refine ⟨fun c a b k => ?_, by rw [h]; simp, step_next _ .tick [] rfl (fun _ => ⟨_, rfl⟩)⟩
  rw [h] at k
  simp only [List.mem_singleton, LinkOutput.writeBegin.injEq] at k
  obtain ⟨rfl, rfl, rfl⟩ := k
  exact ⟨_, by decide +kernel, by decide +kernel, rfl, by decide +kernel⟩

/-! ### Intake -/

def narrow : State := base.setClient 5 { active with config := { active.config with windowCode := 1, windowMask := 1 } }

theorem witness_IntakeRefusalsInOrder :
    (Ready (hand base 5 (acquireOf 900 0 8 0 0 1)) 5 .acquire (acquireOf 900 0 8 0 0 1) ∧
      inRange (acquireOf 900 0 8 0 0 1) .acquire = false) ∧
    (Ready (hand base 5 (shortOf 0x48 5 1)) 5 .queryClient (shortOf 0x48 5 1) ∧
      inRange (shortOf 0x48 5 1) .queryClient = true) ∧
    (Ready (hand narrow 5 (acquireOf 900 0 7 0 0 1)) 5 .acquire (acquireOf 900 0 7 0 0 1) ∧
      inRange (acquireOf 900 0 7 0 0 1) .acquire = true ∧
      ¬ (hand narrow 5 (acquireOf 900 0 7 0 0 1)).windowAdmits 5 (windowNames (acquireOf 900 0 7 0 0 1) .acquire)) :=
  ⟨⟨ready_of (by decide +kernel), by decide +kernel⟩, ⟨ready_of (by decide +kernel), by decide +kernel⟩,
    ready_of (by decide +kernel), by decide +kernel, denied (by decide +kernel)⟩

theorem witness_NopAndUnknownOpcode :
    let r := shortOf 0x0A 0 3
    let bad := shortOf 0x00 0 3
    let s := hand base 5 r
    (s.engine = .running ∧ (s.ring 5).fetch = .inHand r ∧ bytesOf r 0 1 = 0x0A) ∧
      (((hand base 5 bad).ring 5).fetch = .inHand bad ∧ bytesOf bad 0 1 = 0) ∧
      [0x0B, 0x3F, 0x4B, 0xFF].map (fun op => bytesOf (shortOf op 0 3) 0 1) = [0x0B, 0x3F, 0x4B, 0xFF] := by decide +kernel

/-! ### Acquiring locks -/

/-- A client with these quotas. -/
def quotas (holds waits : Nat) : ClientRecord := { active with config := { active.config with holdQuota := holds, waitQuota := waits } }

theorem firstHeld_of {e : LockEntry} {i : SlotId} {h : Holder}
    (k : e.slots[i] = some h ∧ ∀ j : SlotId, j < i → e.slots[j] = none) : e.firstHeld i h := k

theorem sole_of {e : LockEntry} {i : SlotId} {h : Holder}
    (k : e.slots[i] = some h ∧ ∀ j : SlotId, j ≠ i → e.slots[j] = none) : e.sole i h := k

theorem admitsAtOnce_of {e : LockEntry} {m : Mode} (i : SlotId)
    (k : e.mode = .shared ∧ m = .shared ∧ (e.slots[i] = none ∧ ∀ j : SlotId, j < i → e.slots[j] ≠ none) ∧ e.waiters = [] ∧
      e.upgrade = none) : e.admitsAtOnce m := ⟨k.1, k.2.1, ⟨i, k.2.2.1⟩, k.2.2.2⟩

theorem blocked_of_mode {e : LockEntry} {m : Mode} (k : e.mode = .exclusive ∨ m = .exclusive ∨ e.waiters ≠ []) :
    ¬ e.admitsAtOnce m := by
  intro h
  rcases k with k | k | k
  · rw [h.1] at k; cases k
  · rw [h.2.1] at k; cases k
  · exact k h.2.2.2.1

theorem fit_of {s : State} {c : ClientId}
    (k : (s.client c).state ≠ .isolated ∧ (s.client c).state ≠ .halted ∧ (s.client c).teardown = none) : s.fit c := k

theorem lowestFree_of {e : LockEntry} {i : SlotId} (k : e.slots[i] = none ∧ ∀ j : SlotId, j < i → e.slots[j] ≠ none) :
    e.lowestFree i := k

/-- A grant on an absent name with the last free entry, and one in slot 7 of a SHARED entry of seven. -/
def lastEntry : State := hand { base with freeEntries := 1, nextToken := 2 ^ 64 - 1 } 3 (acquireOf 41220 1 7 65535 65535 0x11)
def sevenHolds : LockEntry :=
  entryOf 900 .shared [hold 1 1 .shared, hold 2 2 .shared, hold 3 3 .shared, hold 4 4 .shared, hold 5 5 .shared, hold 6 6 .shared,
    hold 7 7 .shared] [] none
def lastSlot : State := hand (put base sevenHolds) 8 (acquireOf 900 0 0 0 0 0x11)

theorem witness_AcquireGrantsAtOnce :
    (Ready lastEntry 3 .acquire (acquireOf 41220 1 7 65535 65535 0x11) ∧
      Decode.acquireFields (acquireOf 41220 1 7 65535 65535 0x11) =
        some { name := 41220, mode := .exclusive, priority := 7, lease := 65535, wait := 65535 } ∧
      lastEntry.windowAdmits 3 [41220] ∧ lastEntry.holdRoom 3 ∧ lastEntry.nextToken < 2 ^ 64 ∧ lastEntry.entry? 41220 = none ∧
      lastEntry.freeEntries ≠ 0) ∧
    (Ready lastSlot 8 .acquire (acquireOf 900 0 0 0 0 0x11) ∧
      Decode.acquireFields (acquireOf 900 0 0 0 0 0x11) =
        some { name := 900, mode := .shared, priority := 0, lease := 0, wait := 0 } ∧
      lastSlot.windowAdmits 8 [900] ∧ lastSlot.holdRoom 8 ∧ lastSlot.entry? 900 = some sevenHolds ∧ sevenHolds.without 8 ∧
      sevenHolds.admitsAtOnce .shared ∧ sevenHolds.lowestFree 7) :=
  ⟨⟨ready_of (by decide +kernel), by decide +kernel, admitted (by decide +kernel), Nat.lt_of_sub_pos (by decide +kernel),
      by decide +kernel, by decide +kernel, by decide +kernel⟩,
    ready_of (by decide +kernel), by decide +kernel, admitted (by decide +kernel), Nat.lt_of_sub_pos (by decide +kernel),
    by decide +kernel, without_of (by decide +kernel), admitsAtOnce_of 7 (by decide +kernel), lowestFree_of (by decide +kernel)⟩

/-- A SHARED lock of seven holds behind which a SHARED waiter of low priority stands. -/
def sevenWaited : LockEntry := { sevenHolds with name := 77, waiters := [waits 9 .shared 6] }

/-- The ACQUIRE of client `q` for the kept lock, with the given wait. -/
def asks (s : State) (q : ClientId) (wait : Nat) : State := hand s q (acquireOf 77 0 4 0 wait 3)

theorem asks_ready (s : State) (q : ClientId) (wait : Nat) (h : s.engine = .running ∧
    ((asks s q wait).ring q).fetch = .inHand (acquireOf 77 0 4 0 wait 3) ∧ Decode.opcode (acquireOf 77 0 4 0 wait 3) = some .acquire ∧
    s.nextToken ≤ 2 ^ 64) : Ready (asks s q wait) q .acquire (acquireOf 77 0 4 0 wait 3) := ready_of h

theorem asks_fields : [0, 1, 65535].map (fun wait => Decode.acquireFields (acquireOf 77 0 4 0 wait 3)) =
    [0, 1, 65535].map (fun wait => some { name := 77, mode := .shared, priority := 4, lease := 0, wait := wait }) := by
  decide +kernel

theorem witness_AcquireRefusalsInOrder :
    -- held, and waited on
    (Ready (asks locks 4 0) 4 .acquire (acquireOf 77 0 4 0 0 3) ∧ (asks locks 4 0).windowAdmits 4 [77] ∧
      (asks locks 4 0).entry? 77 = some keptLock ∧ keptLock.slots[(0 : SlotId)] = some (hold 4 40 .exclusive)) ∧
    (Ready (asks locks 6 0) 6 .acquire (acquireOf 77 0 4 0 0 3) ∧ (asks locks 6 0).entry? 77 = some keptLock ∧
      waits 6 .exclusive 5 ∈ keptLock.waiters ∧
      ∀ (i : SlotId) (h : Holder), keptLock.slots[i] = some h → h.client ≠ 6) ∧
    -- at the hold quota; a full table
    ((∀ e, (asks (locks.setClient 8 (quotas 0 8)) 8 0).entry? 77 = some e → e.without 8) ∧
      ¬ (asks (locks.setClient 8 (quotas 0 8)) 8 0).holdRoom 8) ∧
    ((asks { base with freeEntries := 0 } 8 0).entry? 77 = none ∧ (asks { base with freeEntries := 0 } 8 0).holdRoom 8 ∧
      (asks { base with freeEntries := 0 } 8 0).freeEntries = 0) ∧
    -- blocked: wait 0, at the wait quota, an empty pool
    (keptLock.without 8 ∧ ¬ keptLock.admitsAtOnce .shared ∧ keptLock.firstHeld 0 (hold 4 40 .exclusive) ∧
      (asks locks 8 0).holdRoom 8 ∧ (asks locks 8 0).waitFor 8 0 = some 0 ∧
      (asks (locks.setClient 8 (quotas 1 0)) 8 1).waitFor 8 1 ≠ some 0 ∧ ¬ (asks (locks.setClient 8 (quotas 1 0)) 8 1).waitRoom 8 ∧
      (asks { locks with poolFree := 0 } 8 65535).waitFor 8 65535 ≠ some 0 ∧ (asks { locks with poolFree := 0 } 8 65535).waitRoom 8 ∧
      (asks { locks with poolFree := 0 } 8 65535).poolFree = 0) :=
  ⟨⟨asks_ready _ _ _ (by decide +kernel), admitted (by decide +kernel), by decide +kernel, by decide +kernel⟩,
    ⟨asks_ready _ _ _ (by decide +kernel), by decide +kernel, by decide +kernel,
      fun i h k => (without_of (c := 6) (e := { keptLock with waiters := [] }) (by decide +kernel)).1 i h k⟩,
    ⟨at_entry keptLock (by decide +kernel) (without_of (by decide +kernel)), by unfold State.holdRoom; decide +kernel⟩,
    ⟨by decide +kernel, by unfold State.holdRoom; decide +kernel, by decide +kernel⟩,
    without_of (by decide +kernel), blocked_of_mode (by decide +kernel), firstHeld_of (by decide +kernel),
    by unfold State.holdRoom; decide +kernel, by decide +kernel, by decide +kernel, by unfold State.waitRoom; decide +kernel,
    by decide +kernel, by unfold State.waitRoom; decide +kernel, by decide +kernel⟩

theorem witness_AcquireWaitsInPriorityOrder :
    Ready (asks locks 8 1) 8 .acquire (acquireOf 77 0 4 0 1 3) ∧ (asks locks 8 1).windowAdmits 8 [77] ∧
      (asks locks 8 1).entry? 77 = some keptLock ∧ keptLock.Lawful ∧ keptLock.without 8 ∧ (asks locks 8 1).holdRoom 8 ∧
      ¬ keptLock.admitsAtOnce .shared ∧ keptLock.firstHeld 0 (hold 4 40 .exclusive) ∧ (asks locks 8 1).waitFor 8 1 ≠ some 0 ∧
      (asks locks 8 1).waitRoom 8 ∧ (asks locks 8 1).poolFree ≠ 0 ∧ keptLock.ahead 4 ≠ [] ∧
      -- at the head, behind an EXCLUSIVE holder
      (keptLock.ahead 1 = [] ∧ (asks locks 8 1).fit 8 ∧ keptLock.upgrade = none ∧ keptLock.mode ≠ .shared) ∧
      -- and granted by its own pass, in the last free slot of a SHARED lock
      (Ready (asks (put base sevenWaited) 8 1) 8 .acquire (acquireOf 77 0 4 0 1 3) ∧
        (asks (put base sevenWaited) 8 1).entry? 77 = some sevenWaited ∧ sevenWaited.Lawful ∧ sevenWaited.without 8 ∧
        (asks (put base sevenWaited) 8 1).holdRoom 8 ∧ ¬ sevenWaited.admitsAtOnce .shared ∧
        sevenWaited.firstHeld 0 (hold 1 1 .shared) ∧ (asks (put base sevenWaited) 8 1).waitRoom 8 ∧ sevenWaited.ahead 4 = [] ∧
        (asks (put base sevenWaited) 8 1).fit 8 ∧ sevenWaited.upgrade = none ∧ sevenWaited.mode = .shared ∧
        sevenWaited.lowestFree 7 ∧ (asks (put base sevenWaited) 8 1).nextToken < 2 ^ 64 ∧
        sevenWaited.waiters = [waits 9 .shared 6] ∧ (asks (put base sevenWaited) 8 1).fit 9 ∧
        ∀ k : SlotId, k ≠ 7 → sevenWaited.slots[k] ≠ none) :=
  ⟨asks_ready _ _ _ (by decide +kernel), admitted (by decide +kernel), by decide +kernel, keptLock_lawful,
    without_of (by decide +kernel), by unfold State.holdRoom; decide +kernel, blocked_of_mode (by decide +kernel),
    firstHeld_of (by decide +kernel), by decide +kernel, by unfold State.waitRoom; decide +kernel, by decide +kernel,
    by decide +kernel, ⟨by decide +kernel, fit_of (by decide +kernel), by decide +kernel, by decide +kernel⟩,
    asks_ready _ _ _ (by decide +kernel), by decide +kernel, lawful_of (by decide +kernel), without_of (by decide +kernel),
    by unfold State.holdRoom; decide +kernel, blocked_of_mode (by decide +kernel), firstHeld_of (by decide +kernel),
    by unfold State.waitRoom; decide +kernel, by decide +kernel, fit_of (by decide +kernel), by decide +kernel, by decide +kernel,
    lowestFree_of (by decide +kernel), by decide +kernel, by decide +kernel, fit_of (by decide +kernel), by decide +kernel⟩

/-- A set of the open lock and an absent name. -/
def setRecord : Record := setOf [70, 71] 0b01 0 0xB0
def setPlaces : List (Name × Mode) := [(70, .exclusive), (71, .shared)]
def setState (s : State) : State := hand s 8 setRecord

theorem setPlaces_read : Decode.setFields setRecord = some { positions := setPlaces, lease := 0 } := by decide +kernel

theorem setState_ready (s : State) (h : s.engine = .running ∧ ((setState s).ring 8).fetch = .inHand setRecord ∧
    Decode.opcode setRecord = some .tryAcquireSet ∧ s.nextToken ≤ 2 ^ 64) : Ready (setState s) 8 .tryAcquireSet setRecord :=
  ready_of h

theorem setState_grants : (setState locks).grantsSet 8 setPlaces where
  distinct := by decide +kernel
  apart n hn := by
    have h : n = 70 ∨ n = 71 := by simpa [setPlaces] using hn
    rcases h with rfl | rfl
    · exact at_absent (by decide +kernel)
    · exact at_entry openLock (by decide +kernel) (without_of (by decide +kernel))
  quota := by decide +kernel
  room := by decide +kernel
  admitted p hp := by
    have h : p = (70, .exclusive) ∨ p = (71, .shared) := by simpa [setPlaces] using hp
    rcases h with rfl | rfl
    · exact at_absent (by decide +kernel)
    · exact at_entry openLock (by decide +kernel) (admitsAtOnce_of 1 (by decide +kernel))

theorem witness_SetGrantsEveryName :
    Ready (setState locks) 8 .tryAcquireSet setRecord ∧ (setState locks).windowAdmits 8 (setPlaces.map Prod.fst) ∧
      (setState locks).grantsSet 8 setPlaces ∧ (setState locks).nextToken + setPlaces.length ≤ 2 ^ 64 :=
  ⟨setState_ready _ (by decide +kernel), admitted (by decide +kernel), setState_grants, by decide +kernel⟩

/-- The counter at its end, with a RELEASE in hand and with a lease expiry raised. -/
def lastRelease : State := { hand locks 4 (holdOf 3 77 40 0 0 3) with nextToken := 2 ^ 64 }
def expiringLock : LockEntry :=
  entryOf 77 .exclusive [{ hold 4 40 .exclusive with expiryRaised := true }] [waits 5 .shared 2] none
def lastExpiry : State := { put base expiringLock with nextToken := 2 ^ 64 }

theorem witness_TokenSpaceHaltsTheEngine :
    (Ready (asks { base with nextToken := 2 ^ 64 } 8 0) 8 .acquire (acquireOf 77 0 4 0 0 3) ∧
      (asks { base with nextToken := 2 ^ 64 } 8 0).windowAdmits 8 [77] ∧ (asks { base with nextToken := 2 ^ 64 } 8 0).holdRoom 8 ∧
      (asks { base with nextToken := 2 ^ 64 } 8 0).nextToken = 2 ^ 64 ∧
      (asks { base with nextToken := 2 ^ 64 } 8 0).entry? 77 = none ∧ (asks { base with nextToken := 2 ^ 64 } 8 0).freeEntries ≠ 0) ∧
    (Ready { setState locks with nextToken := 2 ^ 64 - 1 } 8 .tryAcquireSet setRecord ∧
      { setState locks with nextToken := 2 ^ 64 - 1 }.windowAdmits 8 (setPlaces.map Prod.fst) ∧
      { setState locks with nextToken := 2 ^ 64 - 1 }.grantsSet 8 setPlaces ∧ 2 ^ 64 < 2 ^ 64 - 1 + setPlaces.length) ∧
    -- a RELEASE, and a lease expiry, of the EXCLUSIVE hold ahead of client 5's waiter
    (Ready lastRelease 4 .release (holdOf 3 77 40 0 0 3) ∧ lastRelease.windowAdmits 4 [77] ∧
      lastRelease.holdsAt 4 77 40 keptLock 0 (hold 4 40 .exclusive) ∧ keptLock.sole 0 (hold 4 40 .exclusive) ∧
      keptLock.upgrade = none ∧ keptLock.waiters.head? = some (waits 5 .shared 2) ∧ lastRelease.fit 5 ∧ lastRelease.holdRoom 5 ∧
      lastRelease.nextToken = 2 ^ 64) ∧
    (lastExpiry.engine = .running ∧ lastExpiry.entry? 77 = some expiringLock ∧
      expiringLock.sole 0 { hold 4 40 .exclusive with expiryRaised := true } ∧ expiringLock.upgrade = none ∧
      expiringLock.waiters.head? = some (waits 5 .shared 2) ∧ lastExpiry.fit 5 ∧ lastExpiry.holdRoom 5 ∧
      lastExpiry.nextToken = 2 ^ 64) :=
  ⟨⟨asks_ready _ _ _ (by decide +kernel), admitted (by decide +kernel), by unfold State.holdRoom; decide +kernel, by decide +kernel,
      by decide +kernel, by decide +kernel⟩,
    ⟨ready_of (by decide +kernel), admitted (by decide +kernel),
      ⟨setState_grants.distinct, setState_grants.apart, setState_grants.quota, setState_grants.room, setState_grants.admitted⟩,
      by decide +kernel⟩,
    ⟨ready_of (by decide +kernel), admitted (by decide +kernel), holdsAt_of (by decide +kernel), sole_of (by decide +kernel),
      by decide +kernel, by decide +kernel, fit_of (by decide +kernel), by unfold State.holdRoom; decide +kernel, by decide +kernel⟩,
    by decide +kernel, by decide +kernel, sole_of (by decide +kernel), by decide +kernel, by decide +kernel,
    fit_of (by decide +kernel), by unfold State.holdRoom; decide +kernel, by decide +kernel⟩

theorem witness_SetRefusalsInOrder :
    -- a repeated name; one held, one waited on; the quota by one; a table with no room
    ¬ ([70, 70] : List Name).Nodup ∧
    (setPlaces.map Prod.fst).Nodup ∧ (setPlaces.map Prod.fst)[1]? = some 71 ∧
    ((setState (put base (entryOf 71 .shared [hold 8 1 .shared] [] none))).entry? 71 =
        some (entryOf 71 .shared [hold 8 1 .shared] [] none) ∧
      (entryOf 71 .shared [hold 8 1 .shared] [] none).slots[(0 : SlotId)] = some (hold 8 1 .shared)) ∧
    (waits 8 .shared 1 ∈ (entryOf 71 .shared [hold 5 1 .shared] [waits 8 .shared 1] none).waiters) ∧
    ((setState (locks.setClient 8 (quotas 1 8))).client 8).config.holdQuota <
      ((setState (locks.setClient 8 (quotas 1 8))).account 8).holds.length + (setPlaces.map Prod.fst).length ∧
    (setState { locks with freeEntries := 0 }).freeEntries <
      ((setPlaces.map Prod.fst).filter (fun n => ((setState { locks with freeEntries := 0 }).entry? n).isNone)).length ∧
    (∀ n ∈ setPlaces.map Prod.fst, ∀ e, (setState locks).entry? n = some e → e.without 8) :=
  ⟨by decide +kernel, by decide +kernel, by decide +kernel, ⟨by decide +kernel, by decide +kernel⟩, by decide +kernel,
    by decide +kernel, by decide +kernel, setState_grants.apart⟩

/-- The open lock, but with a waiter: position 1 of the set is marked. -/
def markedLock : LockEntry := entryOf 71 .shared [hold 5 1 .shared] [waits 6 .exclusive 2] none

theorem witness_SetBusyMarksTheBlockers :
    Ready (setState (put base markedLock)) 8 .tryAcquireSet setRecord ∧
      (setState (put base markedLock)).windowAdmits 8 (setPlaces.map Prod.fst) ∧ (setPlaces.map Prod.fst).Nodup ∧
      (setState (put base markedLock)).entry? 70 = none ∧ (setState (put base markedLock)).entry? 71 = some markedLock ∧
      markedLock.without 8 ∧ setPlaces[1]? = some (71, .shared) ∧ ¬ markedLock.admitsAtOnce .shared ∧
      markedLock.firstHeld 0 (hold 5 1 .shared) :=
  ⟨setState_ready _ (by decide +kernel), admitted (by decide +kernel), by decide +kernel, by decide +kernel, by decide +kernel,
    without_of (by decide +kernel), by decide +kernel, blocked_of_mode (by decide +kernel), firstHeld_of (by decide +kernel)⟩

/-! ### Letting go and holding -/

/-- Behind the upgraded lock's holds stands an EXCLUSIVE waiter of client 9. -/
theorem stuck_upgradedLock {s : State}
    (k : (s.client 9).state ≠ .isolated ∧ (s.client 9).state ≠ .halted ∧ (s.client 9).teardown = none) :
    s.stuckBehind upgradedLock.waiters := fun w h => by
  rw [show upgradedLock.waiters = [waits 9 .exclusive 4] by decide +kernel] at h; cases h
  exact ⟨fit_of k, rfl⟩

/-- A record of opcode `op` in hand of `q`, naming a hold. -/
def lets (s : State) (q : ClientId) (op name token : Nat) : State := hand s q (holdOf op name token 0 0 3)

theorem lets_ready {s : State} {q : ClientId} {n name token : Nat} {op : Decode.Opcode} (h : s.engine = .running ∧
    ((lets s q n name token).ring q).fetch = .inHand (holdOf n name token 0 0 3) ∧
    Decode.opcode (holdOf n name token 0 0 3) = some op ∧ s.nextToken ≤ 2 ^ 64) :
    Ready (lets s q n name token) q op (holdOf n name token 0 0 3) := ready_of h

theorem witness_ReleaseWithNobodyWaiting :
    (Ready (lets locks 6 3 330 912) 6 .release (holdOf 3 330 912 0 0 3) ∧
      Decode.holdFields (holdOf 3 330 912 0 0 3) = some { name := 330, token := 912 } ∧
      (lets locks 6 3 330 912).windowAdmits 6 [330] ∧
      (lets locks 6 3 330 912).holdsAt 6 330 912 soleLock 0 (hold 6 912 .exclusive) ∧ soleLock.waiters = [] ∧
      soleLock.upgrade = none ∧ ∀ j : SlotId, j ≠ 0 → soleLock.slots[j] = none) ∧
    (Ready (lets (put base sevenHolds) 7 3 900 7) 7 .release (holdOf 3 900 7 0 0 3) ∧
      (lets (put base sevenHolds) 7 3 900 7).holdsAt 7 900 7 sevenHolds 6 (hold 7 7 .shared) ∧
      sevenHolds.slots[(0 : SlotId)] ≠ none) ∧
    -- with its own upgrade pending
    (Ready (lets locks 1 3 610 50) 1 .release (holdOf 3 610 50 0 0 3) ∧
      (lets locks 1 3 610 50).holdsAt 1 610 50 upgradedLock 0 (hold 1 50 .shared) ∧ upgradedLock.upgrade = some (upgrading 1 0) ∧
      (lets locks 1 3 610 50).stuckBehind upgradedLock.waiters ∧ upgradedLock.slots[(1 : SlotId)] ≠ none) :=
  ⟨⟨lets_ready (by decide +kernel), by decide +kernel, admitted (by decide +kernel), holdsAt_of (by decide +kernel),
      by decide +kernel, by decide +kernel, by decide +kernel⟩,
    ⟨lets_ready (by decide +kernel), holdsAt_of (by decide +kernel), by decide +kernel⟩,
    lets_ready (by decide +kernel), holdsAt_of (by decide +kernel), by decide +kernel, stuck_upgradedLock (by decide +kernel),
    by decide +kernel⟩

theorem witness_ReleaseGrantsTheHeadWaiter :
    Ready (lets locks 4 3 77 40) 4 .release (holdOf 3 77 40 0 0 3) ∧ (lets locks 4 3 77 40).windowAdmits 4 [77] ∧
      (lets locks 4 3 77 40).holdsAt 4 77 40 keptLock 0 (hold 4 40 .exclusive) ∧ keptLock.sole 0 (hold 4 40 .exclusive) ∧
      keptLock.upgrade = none ∧ keptLock.waiters = waits 5 .shared 2 :: [waits 6 .exclusive 5] ∧
      (lets locks 4 3 77 40).fit 5 ∧ (lets locks 4 3 77 40).holdRoom 5 ∧ (lets locks 4 3 77 40).nextToken < 2 ^ 64 ∧
      (lets locks 4 3 77 40).fit 6 ∧ (waits 6 .exclusive 5).mode = .exclusive :=
  ⟨lets_ready (by decide +kernel), admitted (by decide +kernel), holdsAt_of (by decide +kernel), sole_of (by decide +kernel),
    by decide +kernel, by decide +kernel, fit_of (by decide +kernel), by unfold State.holdRoom; decide +kernel, by decide +kernel,
    fit_of (by decide +kernel), by decide +kernel⟩

theorem witness_ReleaseConvertsTheUpgrade :
    Ready (lets locks 2 3 610 51) 2 .release (holdOf 3 610 51 0 0 3) ∧ (lets locks 2 3 610 51).windowAdmits 2 [610] ∧
      (lets locks 2 3 610 51).holdsAt 2 610 51 upgradedLock 1 (hold 2 51 .shared) ∧
      upgradedLock.upgrade = some (upgrading 1 0) ∧ upgradedLock.slots[(0 : SlotId)] = some (hold 1 50 .shared) ∧
      (lets locks 2 3 610 51).fit 1 ∧ ∀ j : SlotId, j ≠ 1 → j ≠ 0 → upgradedLock.slots[j] = none :=
  ⟨lets_ready (by decide +kernel), admitted (by decide +kernel), holdsAt_of (by decide +kernel), by decide +kernel,
    by decide +kernel, fit_of (by decide +kernel), by decide +kernel⟩

/-- Client 4 names a token of another client's hold; one of its own lost tokens. -/
def loser : State := lets (locks.setAccount 4 { locks.account 4 with expired := [901, 902, 903, 904] }) 4 3 330 912
def stale : State := lets (locks.setAccount 4 { locks.account 4 with expired := [901, 902, 903, 904] }) 4 3 999 904

theorem witness_LostTokenIsStaleOrUnknown :
    (Ready loser 4 .release (holdOf 3 330 912 0 0 3) ∧ inRange (holdOf 3 330 912 0 0 3) .release = true ∧
      loser.windowAdmits 4 (windowNames (holdOf 3 330 912 0 0 3) .release) ∧ loser.holdsNot 4 330 912 ∧
      (912 : Token) ∉ (loser.account 4).expired) ∧
    (Ready stale 4 .release (holdOf 3 999 904 0 0 3) ∧ stale.holdsNot 4 999 904 ∧ (904 : Token) ∈ (stale.account 4).expired) :=
  ⟨⟨lets_ready (by decide +kernel), by decide +kernel, admitted (by decide +kernel),
      holdsNot_of soleLock (by decide +kernel) (by decide +kernel), by decide +kernel⟩,
    lets_ready (by decide +kernel),
    fun e i h he => by (rw [show stale.entry? 999 = none by decide +kernel] at he; cases he), by decide +kernel⟩

/-- SHARED waiters of clients 1 to `n`, and a lock of client 9 with eight of them. -/
def runOf (n : Nat) : List Waiter := (List.range n).map (fun k => waits (Fin.ofNat 32 (k + 1)) .shared 2)
def runLock : LockEntry := entryOf 77 .exclusive [hold 9 40 .exclusive] (runOf 8) none

theorem witness_RenewAndDowngrade :
    (Ready (lets locks 4 4 77 40) 4 .renew (holdOf 4 77 40 0 0 3) ∧
      Decode.renewFields (holdOf 4 77 40 0 0 3) = some { name := 77, token := 40, lease := 0 } ∧
      (lets locks 4 4 77 40).windowAdmits 4 [77] ∧
      (lets locks 4 4 77 40).holdsAt 4 77 40 keptLock 0 (hold 4 40 .exclusive)) ∧
    (Ready (lets locks 5 6 71 1) 5 .downgrade (holdOf 6 71 1 0 0 3) ∧
      (lets locks 5 6 71 1).holdsAt 5 71 1 openLock 0 (hold 5 1 .shared) ∧ (hold 5 1 .shared).mode = .shared) ∧
    (Ready (lets locks 6 6 330 912) 6 .downgrade (holdOf 6 330 912 0 0 3) ∧ (lets locks 6 6 330 912).windowAdmits 6 [330] ∧
      (lets locks 6 6 330 912).holdsAt 6 330 912 soleLock 0 (hold 6 912 .exclusive) ∧ soleLock.upgrade = none ∧
      (lets locks 6 6 330 912).stuckBehind soleLock.waiters) ∧
    -- a run of seven SHARED waiters that fills every slot, and one more
    (Ready (lets (put base runLock) 9 6 77 40) 9 .downgrade (holdOf 6 77 40 0 0 3) ∧
      (lets (put base runLock) 9 6 77 40).windowAdmits 9 [77] ∧
      (lets (put base runLock) 9 6 77 40).holdsAt 9 77 40 runLock 0 (hold 9 40 .exclusive) ∧ runLock.Lawful ∧
      runLock.upgrade = none ∧ runLock.waiters = runOf 7 ++ [waits 8 .shared 2] ∧ (runOf 7).length = 7 ∧
      (∀ x ∈ runOf 7, x.mode = .shared ∧ (lets (put base runLock) 9 6 77 40).fit x.client ∧
        (lets (put base runLock) 9 6 77 40).holdRoom x.client) ∧
      (lets (put base runLock) 9 6 77 40).fit 8 ∧ (lets (put base runLock) 9 6 77 40).nextToken + 7 ≤ 2 ^ 64) :=
  ⟨⟨lets_ready (by decide +kernel), by decide +kernel, admitted (by decide +kernel), holdsAt_of (by decide +kernel)⟩,
    ⟨lets_ready (by decide +kernel), holdsAt_of (by decide +kernel), by decide +kernel⟩,
    ⟨lets_ready (by decide +kernel), admitted (by decide +kernel), holdsAt_of (by decide +kernel), by decide +kernel,
      fun w h => by rw [show soleLock.waiters = [] by decide +kernel] at h; cases h⟩,
    lets_ready (by decide +kernel), admitted (by decide +kernel), holdsAt_of (by decide +kernel), lawful_of (by decide +kernel),
    by decide +kernel, by decide +kernel, by decide +kernel, by unfold State.fit State.holdRoom; decide +kernel,
    fit_of (by decide +kernel), by decide +kernel⟩

/-- An UPGRADE of client `q` with the given wait. -/
def raises (s : State) (q : ClientId) (name token wait : Nat) : State := hand s q (holdOf 5 name token 0 wait 3)

theorem witness_UpgradeInTheOrderOfItsChecks :
    (Ready (raises locks 5 71 1 0) 5 .upgrade (holdOf 5 71 1 0 0 3) ∧
      Decode.upgradeFields (holdOf 5 71 1 0 0 3) = some { name := 71, token := 1, wait := 0 } ∧
      (raises locks 5 71 1 0).windowAdmits 5 [71] ∧ (raises locks 5 71 1 0).holdsAt 5 71 1 openLock 0 (hold 5 1 .shared) ∧
      openLock.firstHeld 0 (hold 5 1 .shared) ∧ openLock.holds = 1) ∧
    ((raises locks 6 330 912 0).holdsAt 6 330 912 soleLock 0 (hold 6 912 .exclusive) ∧ (hold 6 912 .exclusive).mode = .exclusive) ∧
    ((raises locks 2 610 51 0).holdsAt 2 610 51 upgradedLock 1 (hold 2 51 .shared) ∧ upgradedLock.holds ≠ 1 ∧
      upgradedLock.upgrade ≠ none ∧ upgradedLock.firstHeld 0 (hold 1 50 .shared)) ∧
    ((raises (put base sevenHolds) 7 900 7 0).holdsAt 7 900 7 sevenHolds 6 (hold 7 7 .shared) ∧ sevenHolds.holds ≠ 1 ∧
      sevenHolds.upgrade = none ∧ (raises (put base sevenHolds) 7 900 7 0).waitFor 7 0 = some 0 ∧
      (raises ((put base sevenHolds).setClient 7 (quotas 1 0)) 7 900 7 1).waitFor 7 1 ≠ some 0 ∧
      ¬ (raises ((put base sevenHolds).setClient 7 (quotas 1 0)) 7 900 7 1).waitRoom 7 ∧
      (raises (put base sevenHolds) 7 900 7 65535).waitFor 7 65535 ≠ some 0 ∧ (raises (put base sevenHolds) 7 900 7 65535).waitRoom 7) :=
  ⟨⟨ready_of (by decide +kernel), by decide +kernel, admitted (by decide +kernel), holdsAt_of (by decide +kernel),
      firstHeld_of (by decide +kernel), by decide +kernel⟩,
    ⟨holdsAt_of (by decide +kernel), by decide +kernel⟩,
    ⟨holdsAt_of (by decide +kernel), by decide +kernel, by decide +kernel, firstHeld_of (by decide +kernel)⟩,
    holdsAt_of (by decide +kernel), by decide +kernel, by decide +kernel, by decide +kernel, by decide +kernel,
    by unfold State.waitRoom; decide +kernel, by decide +kernel, by unfold State.waitRoom; decide +kernel⟩

theorem witness_ForceReleaseRevokes :
    (Ready (lets locks 0 0x46 330 1) 0 .forceRelease (holdOf 0x46 330 1 0 0 3) ∧
      ∀ (e : LockEntry) (i : SlotId) (h : Holder), (lets locks 0 0x46 330 1).entry? 330 = some e → e.slots[i] = some h →
        h.token ≠ 1) ∧
    (Ready (lets locks 0 0x46 330 912) 0 .forceRelease (holdOf 0x46 330 912 0 0 3) ∧
      Decode.holdFields (holdOf 0x46 330 912 0 0 3) = some { name := 330, token := 912 } ∧
      (lets locks 0 0x46 330 912).entry? 330 = some soleLock ∧ soleLock.sole 0 (hold 6 912 .exclusive) ∧ soleLock.waiters = [] ∧
      soleLock.upgrade = none) ∧
    -- one of seven holds
    (Ready (lets (put base sevenHolds) 0 0x46 900 7) 0 .forceRelease (holdOf 0x46 900 7 0 0 3) ∧
      (lets (put base sevenHolds) 0 0x46 900 7).entry? 900 = some sevenHolds ∧
      sevenHolds.slots[(6 : SlotId)] = some (hold 7 7 .shared) ∧ (∀ j : SlotId, ∀ k ∈ sevenHolds.slots[j], k.token = 7 → j = 6) ∧
      sevenHolds.waiters = [] ∧ sevenHolds.upgrade = none ∧ sevenHolds.slots[(0 : SlotId)] ≠ none) ∧
    -- a hold with its upgrade pending
    (Ready (lets locks 0 0x46 610 50) 0 .forceRelease (holdOf 0x46 610 50 0 0 3) ∧
      (lets locks 0 0x46 610 50).entry? 610 = some upgradedLock ∧ upgradedLock.slots[(0 : SlotId)] = some (hold 1 50 .shared) ∧
      (∀ j : SlotId, ∀ k ∈ upgradedLock.slots[j], k.token = 50 → j = 0) ∧ upgradedLock.upgrade = some (upgrading 1 0) ∧
      (lets locks 0 0x46 610 50).stuckBehind upgradedLock.waiters ∧ upgradedLock.slots[(1 : SlotId)] ≠ none) :=
  ⟨⟨lets_ready (by decide +kernel), fun e i h he hs => by
      rw [show (lets locks 0 0x46 330 1).entry? 330 = some soleLock by decide +kernel] at he; cases he
      exact (show ∀ i : SlotId, ∀ h ∈ soleLock.slots[i], h.token ≠ 1 by decide +kernel) i h hs⟩,
    ⟨lets_ready (by decide +kernel), by decide +kernel, by decide +kernel, sole_of (by decide +kernel), by decide +kernel,
      by decide +kernel⟩,
    ⟨lets_ready (by decide +kernel), by decide +kernel⟩,
    lets_ready (by decide +kernel), by decide +kernel, by decide +kernel, by decide +kernel, by decide +kernel,
    stuck_upgradedLock (by decide +kernel), by decide +kernel⟩

/-- A command with a short record in hand of the control queue. -/
def told (s : State) (op target : Nat) : State := hand s 0 (shortOf op target 3)

theorem told_ready {s : State} {n target : Nat} {op : Decode.Opcode} (h : s.engine = .running ∧
    ((told s n target).ring 0).fetch = .inHand (shortOf n target 3) ∧ Decode.opcode (shortOf n target 3) = some op ∧
    s.nextToken ≤ 2 ^ 64) : Ready (told s n target) 0 op (shortOf n target 3) := ready_of h

theorem witness_QueriesReportWithoutChange :
    (Ready (told locks 0x47 78) 0 .queryLock (shortOf 0x47 78 3) ∧ Decode.queryName (shortOf 0x47 78 3) = some 78 ∧
      (told locks 0x47 78).entry? 78 = none) ∧
    (Ready (told locks 0x47 77) 0 .queryLock (shortOf 0x47 77 3) ∧ (told locks 0x47 77).entry? 77 = some keptLock ∧
      keptLock.firstHeld 0 (hold 4 40 .exclusive)) ∧
    (Ready (told locks 0x48 31) 0 .queryClient (shortOf 0x48 31 3) ∧ Decode.clientField (shortOf 0x48 31 3) = some 31) :=
  ⟨⟨told_ready (by decide +kernel), by decide +kernel, by decide +kernel⟩,
    ⟨told_ready (by decide +kernel), by decide +kernel, firstHeld_of (by decide +kernel)⟩,
    told_ready (by decide +kernel), by decide +kernel⟩

/-! ### Waits -/

/-- A client under an isolation teardown. -/
def isolated : ClientRecord := { active with state := .isolated, teardown := some { cause := .isolation, waiting := none } }

/-- A pass that grants the first waiter and stops at the second, and one that its upgrade stops. -/
theorem witness_GrantPassStopsAtABlockedHead :
    let w : AtEntry := { entry := { keptLock with slots := Vector.replicate 8 none }, state := locks }
    w.grantPass.entry.waiters = [waits 6 .exclusive 5] ∧ w.grantPass.entry.upgrade = none ∧
      (AtEntry.grantPass { entry := upgradedLock, state := locks }).entry.upgrade ≠ none := by decide +kernel

/-- The first item of a pass: an unfit upgrade, an unfit head, a head at its hold quota, a head that is granted. -/
theorem witness_GrantPassStopsAtABlockedHead_items :
    let openPass : LockEntry := { keptLock with slots := Vector.replicate 8 none }
    (upgradedLock.upgrade = some (upgrading 1 0) ∧ ¬ (locks.setClient 1 isolated).fit 1) ∧
    (openPass.upgrade = none ∧ openPass.waiters = waits 5 .shared 2 :: [waits 6 .exclusive 5] ∧ openPass.holds = 0 ∧
      ¬ (locks.setClient 5 isolated).fit 5 ∧ locks.fit 5 ∧ ¬ (locks.setClient 5 (quotas 0 8)).holdRoom 5 ∧ locks.holdRoom 5 ∧
      openPass.lowestFree 0 ∧ locks.openBatch.watchEvents = [] ++ [[]]) ∧
    (sevenWaited.upgrade = none ∧ sevenWaited.waiters = waits 9 .shared 6 :: [] ∧ sevenWaited.mode = .shared ∧
      sevenWaited.lowestFree 7) :=
  ⟨⟨by decide +kernel, by unfold State.fit; decide +kernel⟩,
    ⟨by decide +kernel, by decide +kernel, by decide +kernel, by unfold State.fit; decide +kernel, fit_of (by decide +kernel),
      by unfold State.holdRoom; decide +kernel, by unfold State.holdRoom; decide +kernel, lowestFree_of (by decide +kernel),
      by decide +kernel⟩,
    by decide +kernel, by decide +kernel, by decide +kernel, lowestFree_of (by decide +kernel)⟩

/-- CANCEL of tag 9, and of tag 0x21. -/
def cancels (q : ClientId) (tag : Nat) : State := hand locks q (shortOf 0x07 tag 3)

theorem locks_table : locks.table = [openLock, keptLock, soleLock, upgradedLock] := by decide +kernel

theorem witness_CancelEndsTheEarliestWait :
    (Ready (cancels 5 8) 5 .cancel (shortOf 0x07 8 3) ∧ (∀ e ∈ (cancels 5 8).table, ∀ y ∈ e.waiters, y.client = 5 → y.tag ≠ 8) ∧
      ∀ e ∈ (cancels 5 8).table, ∀ v ∈ e.upgrade, v.client = 5 → v.tag ≠ 8) ∧
    (Ready (cancels 6 9) 6 .cancel (shortOf 0x07 9 3) ∧ TableLaw (cancels 6 9) ∧ keptLock ∈ (cancels 6 9).table ∧
      waits 6 .exclusive 5 ∈ keptLock.waiters ∧ keptLock.waiters.head? ≠ some (waits 6 .exclusive 5) ∧
      (∀ e ∈ (cancels 6 9).table, ∀ y ∈ e.waiters, y.client = 6 → y.tag = 9 → y = waits 6 .exclusive 5 ∧ e = keptLock) ∧
      ∀ e ∈ (cancels 6 9).table, ∀ v ∈ e.upgrade, v.client ≠ 6) ∧
    (Ready (cancels 1 0x21) 1 .cancel (shortOf 0x07 0x21 3) ∧ upgradedLock ∈ (cancels 1 0x21).table ∧
      upgradedLock.upgrade = some (upgrading 1 0) ∧ (cancels 1 0x21).stuckBehind upgradedLock.waiters ∧
      (∀ e ∈ (cancels 1 0x21).table, ∀ y ∈ e.waiters, y.client ≠ 1) ∧
      ∀ e ∈ (cancels 1 0x21).table, ∀ v ∈ e.upgrade, v.client = 1 → e = upgradedLock) :=
  ⟨⟨ready_of (by decide +kernel), by decide +kernel, by decide +kernel⟩,
    ⟨ready_of (by decide +kernel), ⟨locks_lawful.names, locks_lawful.entries⟩, by decide +kernel, by decide +kernel, by decide +kernel,
      by decide +kernel, by decide +kernel⟩,
    ready_of (by decide +kernel), by decide +kernel, by decide +kernel,
    fun w h => by
      rw [show upgradedLock.waiters = [waits 9 .exclusive 4] by decide +kernel] at h; cases h
      exact ⟨fit_of (by decide +kernel), rfl⟩,
    by decide +kernel, by decide +kernel⟩

/-- The kept lock with both waits expired, and the upgraded lock with its upgrade's. -/
def dueWaiter (c : ClientId) (m : Mode) (p : Nat) : Waiter := { waits c m p with wait := some 1, expiryRaised := true }
def dueLock : LockEntry := entryOf 77 .exclusive [hold 4 40 .exclusive] [dueWaiter 5 .shared 2, dueWaiter 6 .exclusive 5] none
def dueUpgrade : LockEntry :=
  entryOf 610 .shared [hold 1 50 .shared, hold 2 51 .shared] [waits 9 .exclusive 4]
    (some { upgrading 1 0 with wait := some 1, expiryRaised := true })
def due : State := put (put base dueLock) dueUpgrade

theorem witness_ExpiredWaitsAnswerTimeout :
    (due.engine = .running ∧ due.nextToken ≤ 2 ^ 64 ∧ due.entry? 77 = some dueLock ∧ dueLock.Lawful ∧
      dueWaiter 6 .exclusive 5 ∈ dueLock.waiters ∧ dueLock.waiters.head? ≠ some (dueWaiter 6 .exclusive 5) ∧ due.fit 6 ∧
      ¬ (due.setClient 6 isolated).fit 6) ∧
    (dueLock.waiters.head? = some (dueWaiter 5 .shared 2) ∧ dueLock.mode = .exclusive ∧ due.fit 5) ∧
    (due.entry? 610 = some dueUpgrade ∧ dueUpgrade.Lawful ∧
      dueUpgrade.upgrade = some { upgrading 1 0 with wait := some 1, expiryRaised := true } ∧ due.stuckBehind dueUpgrade.waiters ∧
      due.fit 1 ∧ ¬ (due.setClient 1 isolated).fit 1) :=
  ⟨⟨by decide +kernel, by decide +kernel, by decide +kernel, lawful_of (by decide +kernel), by decide +kernel, by decide +kernel,
      fit_of (by decide +kernel), by unfold State.fit; decide +kernel⟩,
    ⟨by decide +kernel, by decide +kernel, fit_of (by decide +kernel)⟩,
    by decide +kernel, lawful_of (by decide +kernel), by decide +kernel,
    fun w h => by
      rw [show dueUpgrade.waiters = [waits 9 .exclusive 4] by decide +kernel] at h; cases h
      exact ⟨fit_of (by decide +kernel), rfl⟩,
    fit_of (by decide +kernel), by unfold State.fit; decide +kernel⟩

/-! ### The Lease Clock -/

/-- The clock with this elapsed count and these owed sweeps. -/
def clocked (elapsed : Nat) (owed : List Sweep) : State := { base with clock := { base.clock with elapsed := elapsed, owed := owed } }

theorem witness_TicksSweepsAndPeriods :
    ((clocked 98 []).pending = [] ∧ (clocked 98 []).engine = .running ∧
      (clocked 98 []).clock.elapsed + 1 < (clocked 98 []).clock.period) ∧
    ((clocked 99 []).clock.period ≤ (clocked 99 []).clock.elapsed + 1) ∧ State.reset.pending = [] ∧ State.reset.engine ≠ .running ∧
    ((clocked 0 []).sweeping = false ∧ (clocked 0 []).clock.owed = []) ∧
    ((clocked 0 (List.replicate 254 Sweep.empty)).clock.owed ≠ [] ∧ (clocked 0 (List.replicate 254 Sweep.empty)).clock.owed.length < 255) ∧
    (255 ≤ (clocked 0 (List.replicate 255 Sweep.empty)).clock.owed.length) ∧
    ((clocked 0 [Sweep.empty]).clock.owed = Sweep.empty :: [] ∧ (clocked 0 [Sweep.empty]).sweeping = false) ∧
    (Ready (told base 0x49 65535) 0 .setTimebase (shortOf 0x49 65535 3) ∧ Decode.periodField (shortOf 0x49 65535 3) = some 65535) :=
  ⟨by decide +kernel, by decide +kernel, by decide +kernel, by decide +kernel, by decide +kernel, by decide +kernel,
    by decide +kernel, by decide +kernel, told_ready (by decide +kernel), by decide +kernel⟩

/-- The locks, with a sweep that has still to visit the lock and the client. -/
def swept (s : State) (name : Name) (c : ClientId) : State :=
  { s with clock := { s.clock with sweep := { entries := [name], clients := [c] } } }

theorem witness_VisitCountsEveryCountdown :
    (swept locks 610 6).engine = .running ∧ (swept locks 610 6).entry? 610 = some upgradedLock ∧
      (610 : Name) ∈ (swept locks 610 6).clock.sweep.entries := by decide +kernel

def dueHold : Holder := { hold 4 40 .shared with lease := 1, expiryRaised := true }
def dueSole : LockEntry := entryOf 77 .shared [dueHold] [] none
def duePair : LockEntry := entryOf 78 .shared [hold 5 41 .shared, dueHold] [] none

theorem witness_LeaseExpiryTakesTheHold :
    ((put base dueSole).engine = .running ∧ (put base dueSole).nextToken ≤ 2 ^ 64 ∧ (put base dueSole).entry? 77 = some dueSole ∧
      dueSole.slots[(0 : SlotId)] = some dueHold ∧ dueHold.expiryRaised = true ∧
      (∀ j : SlotId, ∀ k ∈ dueSole.slots[j], k.token = dueHold.token → j = 0) ∧ dueSole.waiters = [] ∧ dueSole.upgrade = none ∧
      ∀ j : SlotId, j ≠ 0 → dueSole.slots[j] = none) ∧
    ((put base duePair).entry? 78 = some duePair ∧ duePair.slots[(1 : SlotId)] = some dueHold ∧
      (∀ j : SlotId, ∀ k ∈ duePair.slots[j], k.token = dueHold.token → j = 1) ∧ duePair.slots[(0 : SlotId)] ≠ none) := by
  decide +kernel

/-- The holder of the pending upgrade, with its lease run out. -/
def dueOwner : LockEntry :=
  entryOf 610 .shared [{ hold 1 50 .shared with expiryRaised := true }, hold 2 51 .shared] [waits 9 .exclusive 4]
    (some (upgrading 1 0))

theorem witness_LeaseExpiryTakesTheHold_upgrade :
    (put base dueOwner).entry? 610 = some dueOwner ∧
      dueOwner.slots[(0 : SlotId)] = some { hold 1 50 .shared with expiryRaised := true } ∧
      (∀ j : SlotId, ∀ k ∈ dueOwner.slots[j], k.token = 50 → j = 0) ∧ dueOwner.upgrade = some (upgrading 1 0) ∧
      (put base dueOwner).stuckBehind dueOwner.waiters ∧ dueOwner.slots[(1 : SlotId)] ≠ none ∧ (put base dueOwner).fit 1 ∧
      ¬ ((put base dueOwner).setClient 1 isolated).fit 1 :=
  ⟨by decide +kernel, by decide +kernel, by decide +kernel, by decide +kernel,
    stuck_upgradedLock (s := put base dueOwner) (by decide +kernel), by decide +kernel, fit_of (by decide +kernel),
    by unfold State.fit; decide +kernel⟩

/-- Client 6 RECOVERING, with this much remaining, and visited by the sweep. -/
def recovering (n : Nat) : State := (swept (base.setClient 6 { active with state := .recovering }) 77 6).setRecovery 6 n

theorem witness_RecoveryCountsDownAndCompletes :
    (recovering 2).engine = .running ∧ ((recovering 2).client 6).state = .recovering ∧ (6 : ClientId) ∈ (recovering 2).clock.sweep.clients ∧
      1 < (recovering 2).recovery 6 ∧ (recovering 1).recovery 6 = 1 := by decide +kernel

/-! ### Watches and standing -/

/-- Watches of client `c` with these tags. -/
def watchesOf (c : ClientId) (tags : List Nat) : List Watch :=
  tags.map (fun t => { owner := c, tag := BitVec.ofNat 32 t, code := 0, mask := 0, events := 1 })

def watching (ws : List Watch) : State := hand { base with watches := ws } 2 (watchOf 0 0 31 9)

theorem witness_WatchIsPlacedOrRefused :
    (Ready (watching []) 2 .watch (watchOf 0 0 31 9) ∧ Decode.watchFields (watchOf 0 0 31 9) = some { code := 0, mask := 0, events := 31 }) ∧
    (∃ w ∈ (watching (watchesOf 2 [9])).watches.filter (fun w => w.owner == 2), w.tag = Decode.tag (watchOf 0 0 31 9)) ∧
    (let owned := (watching (watchesOf 2 [1, 2, 3, 4, 5, 6, 7, 8])).watches.filter (fun w => w.owner == 2);
      (∀ w ∈ owned, w.tag ≠ Decode.tag (watchOf 0 0 31 9)) ∧ 8 ≤ owned.length) ∧
    (let s := watching (watchesOf 2 [1, 2, 3, 4, 5, 6, 7] ++ watchesOf 3 (List.range 57));
      (s.watches.filter (fun w => w.owner == 2)).length < 8 ∧ 64 ≤ s.watches.length) ∧
    (let s := watching (watchesOf 2 [1, 2, 3, 4, 5, 6, 7] ++ watchesOf 3 (List.range 56));
      (s.watches.filter (fun w => w.owner == 2)).length < 8 ∧ s.watches.length < 64) :=
  ⟨⟨ready_of (by decide +kernel), by decide +kernel⟩, by decide +kernel, by decide +kernel, by decide +kernel, by decide +kernel⟩

def unwatching (target : Nat) : State := hand { base with watches := watchesOf 2 [1, 2] ++ watchesOf 3 [3] } 2 (shortOf 0x09 target 9)

theorem witness_UnwatchRemovesTheRequestersWatch :
    (Ready (unwatching 2) 2 .unwatch (shortOf 0x09 2 9) ∧
      ∃ w ∈ (unwatching 2).watches, w.owner = 2 ∧ w.tag = Decode.field (shortOf 0x09 2 9) 8 4) ∧
    (Ready (unwatching 3) 2 .unwatch (shortOf 0x09 3 9) ∧
      ∀ w ∈ (unwatching 3).watches, ¬ (w.owner = 2 ∧ w.tag = Decode.field (shortOf 0x09 3 9) 8 4)) :=
  ⟨⟨ready_of (by decide +kernel), by decide +kernel⟩, ready_of (by decide +kernel), by decide +kernel⟩

/-- A watch event of lock 5 behind one of lock 4. -/
theorem witness_WatchEventMatchesInPlacementOrder :
    let ev : Name → WatchEvent := fun n => { kind := .granted, name := n, client := 3, token := 8, mode := .shared }
    let s := { base with watchEvents := [[ev 4], [ev 5, ev 5], []] }
    s.engine = .running ∧ s.watchEvents = [[ev 4]] ++ (ev 5 :: [ev 5]) :: [[]] ∧
      ∀ b ∈ [[ev 4]], b ≠ [] ∧ ∀ x ∈ b, x.name ≠ (ev 5).name := by decide +kernel

/-- Client `c` with this score and these items on their way. -/
def scored (c : ClientId) (score : Nat) (items : List StandingItem) : State :=
  { base.setStanding c { score := score, grade := gradeOf Limits.reset score } with standingQueue := items }

theorem witness_ChargesAndCredits :
    (scored 5 0 []).engine = .running ∧
    (.charge 0 8 ∈ (scored 5 0 [.charge 0 8]).standingQueue) ∧
    (.charge 5 1 ∈ (scored 5 254 [.charge 5 1]).standingQueue ∧ ((scored 5 254 [.charge 5 1]).standing 5).score < 255 ∧
      min 255 (((scored 5 254 [.charge 5 1]).standing 5).score + 1) = 255 ∧
      ((scored 5 254 [.charge 5 1]).client 5).state = .active ∧ ((scored 5 254 [.charge 5 1]).client 5).teardown = none) ∧
    (min 255 (((scored 5 253 [.charge 5 1]).standing 5).score + 1) ≠ 255) ∧
    (.credit 5 ∈ (scored 5 255 [.credit 5]).standingQueue ∧ 255 ≤ ((scored 5 255 [.credit 5]).standing 5).score) ∧
    (.credit 5 ∈ (scored 5 254 [.credit 5]).standingQueue ∧ ((scored 5 254 [.credit 5]).standing 5).score ≤ 254 ∧
      1 ≤ ((scored 5 1 [.credit 5]).standing 5).score) := by decide +kernel

theorem witness_SetLimitsRegradesEveryClient :
    (Ready (hand base 0 (limitsOf 5 5)) 0 .setLimits (limitsOf 5 5) ∧
      Decode.limitFields (limitsOf 5 5) = some { warning := 5, restricted := 5, recovery := 50, leaseCap := 60, waitCap := 70 }) ∧
    (Ready (hand base 0 (limitsOf 1 254)) 0 .setLimits (limitsOf 1 254) ∧
      Decode.limitFields (limitsOf 1 254) = some { warning := 1, restricted := 254, recovery := 50, leaseCap := 60, waitCap := 70 }) :=
  ⟨⟨ready_of (by decide +kernel), by decide +kernel⟩, ready_of (by decide +kernel), by decide +kernel⟩

def disabled : ClientRecord := { active with state := .disabled }
def leaving (state : ClientState) : ClientRecord :=
  { active with state := state, teardown := some { cause := .isolation, waiting := none } }

theorem witness_SetStandingAtADisabledClient :
    (Ready (told base 0x45 0xFF00) 0 .setStanding (shortOf 0x45 0xFF00 3) ∧
      Decode.standingFields (shortOf 0x45 0xFF00 3) = some { target := 0, score := 255 }) ∧
    (Decode.standingFields (shortOf 0x45 6 3) = some { target := 6, score := 0 } ∧
      ((told (base.setClient 6 (leaving .disabled)) 0x45 6).client 6).teardown ≠ none) ∧
    (((told base 0x45 6).client 6).teardown = none ∧ ((told base 0x45 6).client 6).state ≠ .disabled) ∧
    (Ready (told (base.setClient 6 disabled) 0x45 6) 0 .setStanding (shortOf 0x45 6 3) ∧
      ((told (base.setClient 6 disabled) 0x45 6).client 6).teardown = none ∧
      ((told (base.setClient 6 disabled) 0x45 6).client 6).state = .disabled) :=
  ⟨⟨told_ready (by decide +kernel), by decide +kernel⟩, by decide +kernel, by decide +kernel, told_ready (by decide +kernel),
    by decide +kernel⟩

/-! ### Queue pairs -/

/-- Client 5's ring with this much occupied and these notices waiting. -/
def ringed (occupied : Nat) (notices : List Notice) : State :=
  base.setRing 5 { base.ring 5 with occupied := occupied, notices := notices }

def note : Notice := .standing .good .warned 64
def seen : Notice := .watch 1 .freed 5 0 0 .shared

theorem witness_NoticeIsWrittenKeptOrLost :
    (base.client 5).swap = none ∧ ((base.setClient 5 { active with state := .halted }).client 5).muted = true ∧
    ((base.client 5).muted = false ∧ 1 ≤ ((ringed 63 []).ring 5).place.cqSize - ((ringed 63 []).ring 5).occupied -
      ((ringed 63 []).ring 5).reserved ∧ ((ringed 63 []).ring 5).notices = []) ∧
    (((ringed 64 [note, note, note]).ring 5).notices.length < 4 ∧ note.isWatch = false) ∧
    (seen.isWatch = true ∧ 4 ≤ ((ringed 64 [note, note, note, note]).ring 5).notices.length) ∧
    ¬ (1 ≤ ((ringed 64 []).ring 5).place.cqSize - ((ringed 64 []).ring 5).occupied - ((ringed 64 []).ring 5).reserved) := by
  decide +kernel

theorem witness_SubmitAndArmWords :
    base.engine = .running ∧ (base.client 5).state ≠ .unconfigured ∧ (63 : BitVec 12).toNat < (base.ring 5).place.sqSize ∧
      (base.ring 5).place.sqSize ≤ (64 : BitVec 12).toNat ∧ State.reset.engine ≠ .running ∧
      (base.client 31).state = .unconfigured := by decide +kernel

theorem witness_ConsumedFreesSlots :
    let r := (ringed 6 []).ring 5
    (ringed 6 []).engine = .running ∧ ((ringed 6 []).client 5).state ≠ .unconfigured ∧
      ((6 : BitVec 12).toNat < r.place.cqSize ∧ (6 + r.place.cqSize - r.consumedHead) % r.place.cqSize ≤ r.occupied) ∧
      ¬ ((7 + r.place.cqSize - r.consumedHead) % r.place.cqSize ≤ r.occupied) ∧ ¬ ((64 : BitVec 12).toNat < r.place.cqSize) := by
  decide +kernel

/-- Clients with one record posted, and the arbiter's position. -/
def posted (cs : List ClientId) (position : Nat) : State :=
  { cs.foldl (fun s c => s.setRing c { s.ring c with sqPosted := 1 }) base with roundRobin := position }

/-- The clients that R119 makes eligible. -/
def ready (s : State) (c : ClientId) : Bool :=
  decide ((s.client c).state = .active ∧ (s.client c).teardown = none ∧
    1 ≤ ((s.ring c).sqPosted + (s.ring c).place.sqSize - (s.ring c).sqConsumer) % (s.ring c).place.sqSize ∧
    1 ≤ (s.ring c).place.cqSize - (s.ring c).occupied - (s.ring c).reserved ∧ (s.ring c).fetch = .idle)

theorem witness_ArbiterGrantsTheReadPath :
    (posted [0, 5] 31).engine = .running ∧ (posted [0, 5] 31).roundRobin ≤ 31 ∧
    ((∀ c, ((posted [0, 5] 31).ring c).fetch = .idle) ∧ ready (posted [0, 5] 31) 0 = true) ∧
    (ready (posted [5, 9] 5) 0 = false ∧ ready (posted [5, 9] 5) 9 = true ∧
      ∀ d, d ≠ 0 → ready (posted [5, 9] 5) d = true → (9 + 30 - 5) % 31 ≤ (d.val + 30 - 5) % 31) ∧
    (∀ c, ready (posted [] 0) c = false) ∧ ((after .fetchGrant (posted [0, 5] 31)).ring 0).fetch = .fetching 0 false := by
  decide +kernel

def fetching (c : ClientRecord) : State := (base.setClient 5 c).setRing 5 { base.ring 5 with fetch := .fetching 0 false, reserved := 1 }

theorem witness_ReadReturnsInHandOrDiscarded :
    (fetching active).engine = .running ∧ ((fetching active).ring 5).fetch = .fetching 0 false ∧
      ((fetching active).client 5).state = .active ∧ ((fetching active).client 5).teardown = none ∧
      (((fetching active).setRing 5 { base.ring 5 with fetch := .fetching 0 true, reserved := 1 }).ring 5).fetch = .fetching 0 true ∧
      ((fetching disabled).client 5).state ≠ .active ∧ ((fetching (leaving .disabled)).client 5).teardown ≠ none := by
  decide +kernel

def writing (c : ClientRecord) (waiting : List Completion) : State :=
  (base.setClient 5 c).setRing 5 { base.ring 5 with cqProducer := 63, reserved := 2, writing := some written, waiting := waiting }

theorem witness_WriteEndOccupiesTheSlot :
    (writing active []).engine = .running ∧ ((writing active []).ring 5).writing = some written ∧ ((writing active []).ring 5).waiting = [] ∧
    ((writing active [.notice note]).ring 5).waiting = .notice note :: [] ∧ ((writing active [.notice note]).client 5).muted = false ∧
    ((writing { active with state := .halted } []).client 5).muted = true := by decide +kernel

/-- Every field of a query's body at the end of its range. -/
theorem witness_CompletionBytesOfAResponse :
    let report : Report := { holder := 31, holders := 255, ahead := 255, mode := .exclusive }
    let lock : LockSnapshot :=
      { mode := .shared, holders := 255, firstHolder := 31, waiters := 65535, headClient := 31, headMode := .exclusive,
        upgradePending := true, contention := 65535 }
    let client : ClientSnapshot :=
      { state := .halted, score := 255, grade := .restricted, teardown := true, holds := 65535, waits := 255, watches := 255,
        reservations := 65535, lost := 65535, recovery := 65535 }
    (65535 < 65536 ∧ 255 < 256) ∧ (report.holders < 256 ∧ report.ahead < 256) ∧
      (lock.holders < 256 ∧ lock.waiters < 65536 ∧ lock.contention < 65536) ∧
      (client.score < 256 ∧ client.holds < 65536 ∧ client.waits < 256 ∧ client.watches < 256 ∧ client.reservations < 65536 ∧
        client.lost < 65536 ∧ client.recovery < 65536) := by decide

/-! ### Lifecycle and teardown -/

/-- Client 5 with this record, and a command that names it in hand. -/
def named (r : ClientRecord) (op : Nat) : State := told (base.setClient 5 r) op 5

theorem witness_LifecycleRefusalsInOrder :
    (Ready (told base 0x41 0) 0 .enableClient (shortOf 0x41 0 3) ∧ Decode.clientField (shortOf 0x41 0 3) = some 0) ∧
    (Ready (named (leaving .disabled) 0x44) 0 .reinstateClient (shortOf 0x44 5 3) ∧ Decode.clientField (shortOf 0x44 5 3) = some 5 ∧
      ((named (leaving .disabled) 0x44).client 5).teardown ≠ none) ∧
    (Ready (named active 0x41) 0 .enableClient (shortOf 0x41 5 3) ∧ ((named active 0x41).client 5).teardown = none ∧
      ((named active 0x41).client 5).state ≠ .disabled) ∧
    (Ready (named { active with state := .unconfigured } 0x43) 0 .resetClient (shortOf 0x43 5 3) ∧
      Ready (named disabled 0x42) 0 .disableClient (shortOf 0x42 5 3)) :=
  ⟨⟨told_ready (by decide +kernel), by decide +kernel⟩, ⟨told_ready (by decide +kernel), by decide +kernel, by decide +kernel⟩,
    ⟨told_ready (by decide +kernel), by decide +kernel, by decide +kernel⟩, told_ready (by decide +kernel),
    told_ready (by decide +kernel)⟩

theorem witness_EnableAndDisableClient :
    (Ready (named disabled 0x41) 0 .enableClient (shortOf 0x41 5 3) ∧ Decode.clientField (shortOf 0x41 5 3) = some 5 ∧
      ((named disabled 0x41).client 5).teardown = none ∧ ((named disabled 0x41).client 5).state = .disabled ∧
      ((named disabled 0x41).client 5).recoveryPending = false ∧ ((named disabled 0x41).standing 5).score ≠ 255) ∧
    (((named { disabled with recoveryPending := true } 0x41).client 5).recoveryPending = true) ∧
    (((named disabled 0x41).setStanding 5 { score := 255, grade := .restricted }).standing 5).score = 255 ∧
    (Ready (named active 0x42) 0 .disableClient (shortOf 0x42 5 3) ∧ ((named active 0x42).client 5).state = .active ∧
      ((named active 0x42).ring 5).fetch = .idle ∧
      ((named { active with state := .recovering } 0x42).client 5).state = .recovering) ∧
    (Ready (told (fetching active) 0x42 5) 0 .disableClient (shortOf 0x42 5 3) ∧
      ((told (fetching active) 0x42 5).client 5).state = .active ∧
      ((told (fetching active) 0x42 5).ring 5).fetch = .fetching 0 false) :=
  ⟨⟨told_ready (by decide +kernel), by decide +kernel⟩, by decide +kernel, by decide +kernel,
    ⟨told_ready (by decide +kernel), by decide +kernel⟩, told_ready (by decide +kernel), by decide +kernel⟩

theorem witness_ResetAndReinstateClient :
    (Decode.clientField (shortOf 0x43 5 3) = some 5 ∧ ((named active 0x43).client 5).teardown = none ∧
      Ready (named active 0x43) 0 .resetClient (shortOf 0x43 5 3) ∧ ((named active 0x43).client 5).state ≠ .unconfigured ∧
      ((named { active with state := .halted } 0x43).client 5).state = .halted) ∧
    (Ready (named { active with state := .isolated } 0x44) 0 .reinstateClient (shortOf 0x44 5 3) ∧
      ((named { active with state := .isolated } 0x44).client 5).state = .isolated) :=
  ⟨⟨by decide +kernel, by decide +kernel, ready_of (by decide +kernel), by decide +kernel, by decide +kernel⟩,
    ready_of (by decide +kernel), by decide +kernel⟩

/-- CONFIGURE_CLIENT with the largest quotas and base 0x8000, or with one thing out of its terms. -/
def configures (s : State) (client holds size : Nat) : State := hand s 0 (configOf client 0 holds 64 0x8000 size)

theorem witness_ConfigureClientInOrder :
    (Ready (configures base 12 256 4096) 0 .configureClient (configOf 12 0 256 64 0x8000 4096) ∧
      (Decode.configureFields (configOf 12 0 256 64 0x8000 4096)).map
        (fun f => (f.target.val, [f.sqBase.toNat % 4096, f.cqBase.toNat % 4096, f.sqSize, f.cqSize, f.holdQuota, f.waitQuota])) =
          some (12, [0, 0, 2 ^ 12, 2 ^ 6, 256, 64]) ∧
      ((configures base 12 256 4096).client 12).state = .unconfigured ∧ ((configures base 12 256 4096).client 12).teardown = none ∧
      ((configures base 12 256 4096).client 12).swap = none) ∧
    ((Decode.configureFields (configOf 0 0 256 64 0x8000 4096)).map (fun f => f.target) = some 0) ∧
    (((configures (base.setClient 5 (leaving .disabled)) 5 256 4096).client 5).teardown ≠ none) ∧
    (((configures base 5 256 4096).client 5).state ≠ .unconfigured ∧ ((configures base 5 256 4096).client 5).state ≠ .disabled) ∧
    ((Decode.configureFields (configOf 12 0 257 64 0x8000 4096)).map (fun f => f.holdQuota) = some 257) :=
  ⟨⟨ready_of (by decide +kernel), by decide +kernel, by decide +kernel, by decide +kernel, by decide +kernel⟩, by decide +kernel,
    by decide +kernel, by decide +kernel, by decide +kernel⟩

/-- Client 5 with a CONFIGURE_CLIENT that waits. -/
def swapping : State :=
  base.setClient 5 { disabled with
    swap := some { place := ringsOf 30, old := active.config, waiting := [{ tag := 3, index := 10 }] } }

theorem witness_RingSwapGivesAFreshContext :
    swapping.engine = .running ∧
      (swapping.client 5).swap = some { place := ringsOf 30, old := active.config, waiting := [{ tag := 3, index := 10 }] } ∧
      ((swapping.ring 5).writing = none ∧ (swapping.ring 5).reserved = 0 ∧ (swapping.ring 5).fetch = .idle) ∧
      (let s := swapping.setRing 5 { base.ring 5 with reserved := 64, fetch := .fetching 0 false }
       (s.ring 5).writing = none ∧ (s.ring 5).reserved ≤ (ringsOf 30).cqSize ∧ (s.ring 5).fetch = .fetching 0 false) ∧
      (let s := swapping.setRing 5 { base.ring 5 with reserved := 64, fetch := .inHand 7 }
       (s.ring 5).writing = none ∧ (s.ring 5).reserved ≤ (ringsOf 30).cqSize ∧ (s.ring 5).fetch = .inHand 7) ∧
      ((swapping.setRing 5 { base.ring 5 with writing := some written }).ring 5).writing ≠ none ∧
      (ringsOf 30).cqSize < ((swapping.setRing 5 { base.ring 5 with reserved := 65 }).ring 5).reserved := by
  decide +kernel

/-- The locks, with client `c` under an isolation teardown. -/
def torn (c : ClientId) : State := locks.setClient c (leaving .isolated)

theorem witness_TeardownRemovesTheWaits :
    ((torn 6).engine = .running ∧ (torn 6).nextToken ≤ 2 ^ 64 ∧ ((torn 6).client 6).teardown ≠ none ∧
      (∀ r, ((torn 6).ring 6).fetch ≠ .inHand r) ∧ (torn 6).entry? 77 = some keptLock ∧ keptLock.Lawful ∧
      waits 6 .exclusive 5 ∈ keptLock.waiters ∧ keptLock.waiters.head? ≠ some (waits 6 .exclusive 5)) ∧
    (keptLock.waiters.head? = some (waits 5 .shared 2) ∧ keptLock.mode = .exclusive ∧ (torn 5).fit 6) ∧
    ((torn 1).entry? 610 = some upgradedLock ∧ upgradedLock.Lawful ∧ upgradedLock.upgrade = some (upgrading 1 0) ∧
      (torn 1).stuckBehind upgradedLock.waiters) :=
  ⟨⟨by decide +kernel, by decide +kernel, by decide +kernel,
      fun r h => by (rw [show ((torn 6).ring 6).fetch = .idle by decide +kernel] at h; cases h), by decide +kernel, keptLock_lawful,
      by decide +kernel, by decide +kernel⟩,
    ⟨by decide +kernel, by decide +kernel, fit_of (by decide +kernel)⟩,
    by decide +kernel, upgradedLock_lawful, by decide +kernel,
    fun w h => by
      rw [show upgradedLock.waiters = [waits 9 .exclusive 4] by decide +kernel] at h; cases h
      exact ⟨fit_of (by decide +kernel), rfl⟩⟩

/-- Client 6 alone with its hold, under teardown. -/
def tornHold (holds : List HoldItem) : State :=
  ((put base soleLock).setClient 6 (leaving .isolated)).setAccount 6 { Account.reset with holds := holds }

theorem witness_TeardownRevokesTheOldestHold :
    ((tornHold [{ name := 330, token := 912 }]).engine = .running ∧ (tornHold [{ name := 330, token := 912 }]).nextToken ≤ 2 ^ 64 ∧
      ((tornHold [{ name := 330, token := 912 }]).client 6).teardown ≠ none ∧
      (∀ r, ((tornHold [{ name := 330, token := 912 }]).ring 6).fetch ≠ .inHand r) ∧
      ((tornHold [{ name := 330, token := 912 }]).account 6).waits = 0 ∧
      ((tornHold [{ name := 330, token := 912 }]).account 6).holds = { name := 330, token := 912 } :: [] ∧
      (tornHold [{ name := 330, token := 912 }]).holdsAt 6 330 912 soleLock 0 (hold 6 912 .exclusive) ∧
      (∀ j : SlotId, j ≠ 0 → soleLock.slots[j] = none) ∧
      soleLock.waiters = [] ∧ soleLock.upgrade = none) ∧
    (tornHold [{ name := 330, token := 5 }]).holdsNot 6 330 5 :=
  ⟨⟨by decide +kernel, by decide +kernel, by decide +kernel,
      fun r h => by
        (rw [show ((tornHold [{ name := 330, token := 912 }]).ring 6).fetch = .idle by decide +kernel] at h; cases h),
      by decide +kernel, by decide +kernel, holdsAt_of (by decide +kernel), by decide +kernel, by decide +kernel, by decide +kernel⟩,
    holdsNot_of soleLock (by decide +kernel) (by decide +kernel)⟩

/-- Client `c` under teardown with this lock's hold left; of its waits nothing is counted any more. -/
def tornAt (e : LockEntry) (c : ClientId) (item : HoldItem) : State :=
  ((put base e).setClient c (leaving .isolated)).setAccount c { Account.reset with holds := [item] }

theorem witness_TeardownRevokesTheOldestHold_shared :
    ((tornAt sevenHolds 7 { name := 900, token := 7 }).holdsAt 7 900 7 sevenHolds 6 (hold 7 7 .shared) ∧ sevenHolds.waiters = [] ∧
      sevenHolds.upgrade = none ∧ sevenHolds.slots[(0 : SlotId)] ≠ none) ∧
    ((tornAt upgradedLock 1 { name := 610, token := 50 }).holdsAt 1 610 50 upgradedLock 0 (hold 1 50 .shared) ∧
      upgradedLock.upgrade = some (upgrading 1 0) ∧
      (tornAt upgradedLock 1 { name := 610, token := 50 }).stuckBehind upgradedLock.waiters ∧
      upgradedLock.slots[(1 : SlotId)] ≠ none ∧ ((tornAt upgradedLock 1 { name := 610, token := 50 }).account 1).waits = 0) :=
  ⟨⟨holdsAt_of (by decide +kernel), by decide +kernel, by decide +kernel, by decide +kernel⟩,
    holdsAt_of (by decide +kernel), by decide +kernel, stuck_upgradedLock (by decide +kernel), by decide +kernel,
    by decide +kernel⟩

/-- Client 6 under a teardown of this cause, with nothing left. -/
def tornDown (cause : TeardownCause) (state : ClientState) (waiting : Option CommandRef) : State :=
  base.setClient 6 { active with state := state, teardown := some { cause := cause, waiting := waiting } }

theorem witness_TeardownEndActions :
    ((tornDown .halt .halted none).engine = .running ∧
      ((tornDown .halt .halted none).client 6).teardown = some { cause := .halt, waiting := none } ∧
      (∀ r, ((tornDown .halt .halted none).ring 6).fetch ≠ .inHand r) ∧ ((tornDown .halt .halted none).account 6).waits = 0 ∧
      ((tornDown .halt .halted none).account 6).holds = [] ∧ (∀ w ∈ (tornDown .halt .halted none).watches, w.owner ≠ 6) ∧
      ((tornDown .halt .halted none).ring 6).fetch = .idle ∧ ((tornDown .halt .halted none).ring 6).writing = none) ∧
    (((tornDown .isolation .isolated none).client 6).state = .isolated) ∧
    (((tornDown .isolation .halted (some { tag := 3, index := 1 })).client 6).state ≠ .isolated) ∧
    (((tornDown .reset .disabled (some { tag := 3, index := 1 })).client 6).teardown =
      some { cause := .reset, waiting := some { tag := 3, index := 1 } }) ∧
    (∃ w ∈ ({ tornDown .halt .halted none with watches := watchesOf 6 [1] } : State).watches, w.owner = 6) :=
  ⟨⟨by decide +kernel, by decide +kernel,
      fun r h => by (rw [show ((tornDown .halt .halted none).ring 6).fetch = .idle by decide +kernel] at h; cases h),
      by decide +kernel, by decide +kernel, by decide +kernel, by decide +kernel, by decide +kernel⟩,
    by decide +kernel, by decide +kernel, by decide +kernel, by decide +kernel⟩

/-! ### Faults and engine control -/

theorem witness_ReadFaultHaltsTheClient :
    (fetching active).engine = .running ∧ ((fetching active).ring 5).fetch = .fetching 0 false ∧ ((fetching active).client 5).state ≠ .halted ∧
      ((fetching { active with state := .halted }).client 5).state = .halted := by decide +kernel

theorem witness_WriteFaultHaltsTheClient :
    (writing active []).engine = .running ∧ ((writing active []).ring 5).writing = some written ∧ ((writing active []).client 5).swap = none ∧
      ((writing active []).client 5).state ≠ .halted ∧ ((writing { active with state := .halted } []).client 5).state = .halted ∧
      ((swapping.setRing 5 { base.ring 5 with writing := some written }).client 5).swap =
        some { place := ringsOf 30, old := active.config, waiting := [{ tag := 3, index := 10 }] } ∧
      (let s := (swapping.setClient 5 { swapping.client 5 with state := .halted }).setRing 5 { base.ring 5 with writing := some written }
       (s.ring 5).writing = some written ∧ (s.client 5).state = .halted ∧
         (s.client 5).swap = some { place := ringsOf 30, old := active.config, waiting := [{ tag := 3, index := 10 }] }) := by
  decide +kernel

theorem witness_ControlFaultHaltsTheEngine :
    base.engine = .running ∧ ((base.setRing 0 { base.ring 0 with fetch := .fetching 0 false }).ring 0).fetch = .fetching 0 false ∧
      ((base.setRing 0 { base.ring 0 with writing := some written }).ring 0).writing = some written := by decide +kernel

/-- STOPPED, with these control ring registers. -/
def stopped (low sizes : Word) : State :=
  { State.reset with regs := { sqBaseLow := low, sqBaseHigh := 0xFFFFFFFF, cqBaseLow := 0xFFFFF000, cqBaseHigh := 0, sizes := sizes } }

theorem witness_StartJudgesTheControlRings :
    ((stopped 0x1000 0x10000010).engine = .stopped ∧ (stopped 0x1000 0x10000010).regs.sqBaseLow.toNat % 4096 = 0 ∧
      (stopped 0x1000 0x10000010).regs.cqBaseLow.toNat % 4096 = 0 ∧ (stopped 0x1000 0x10000010).regs.sizes.toNat % 65536 = 2 ^ 4 ∧
      (stopped 0x1000 0x10000010).regs.sizes.toNat / 65536 = 2 ^ 12) ∧
    (¬ (stopped 0x1800 0x10000010).regs.sqBaseLow.toNat % 4096 = 0) ∧ base.engine ≠ .stopped := by decide +kernel

theorem witness_RegisterWindowWrites :
    State.reset.engine = .stopped ∧ (0x020 : BitVec 12) ∈ [(0x010 : BitVec 12), 0x014, 0x018, 0x01C, 0x020] ∧ base.engine ≠ .stopped ∧
      (0x020 : BitVec 12) ∉ [(0x004 : BitVec 12), 0x040, 0x088] ∧
      ((0x008 : BitVec 12) ∉ [(0x004 : BitVec 12), 0x040, 0x088] ∧
        (0x008 : BitVec 12) ∉ [(0x010 : BitVec 12), 0x014, 0x018, 0x01C, 0x020]) ∧
      (0x004 : BitVec 12) ∉ [(0x000 : BitVec 12), 0x008, 0x010, 0x014, 0x018, 0x01C, 0x020, 0x080, 0x084] ∧
      (let full : Capture := { latch := some { client := 31, ring := .completion, index := 65535, kind := .address }, overflow := 255 }
       full.overflow ≤ 255 ∧ ∀ f ∈ full.latch, f.index < 65536) ∧
      State.reset.capture.latch = none ∧ State.reset.capture.overflow ≤ 255 := by decide +kernel

end Sys2Proof.Tests
end

section
/-! PROOFS. What each command leaves as it was. -/

namespace Sys2Proof.Machine

/-! ## Events that touch ring contexts and the link alone -/

/-- The two states differ in ring contexts and in what went out on the link, and in nothing else. -/
def State.RingsOnly (s t : State) : Prop := t = { s with rings := t.rings, linkOut := t.linkOut }

namespace State.RingsOnly

theorem refl (s : State) : s.RingsOnly s := rfl

theorem trans {s t u : State} (h : s.RingsOnly t) (k : t.RingsOnly u) : s.RingsOnly u := by
  unfold RingsOnly at *; rw [k, h]

theorem setRing (s : State) (c : ClientId) (r : RingContext) : s.RingsOnly (s.setRing c r) := rfl
theorem withRing (s : State) (c : ClientId) (r : RingContext) : s.RingsOnly (s.withRing c r) := rfl
theorem put (s : State) (o : LinkOutput) : s.RingsOnly (s.put o) := rfl
theorem quiet (s : State) : s.RingsOnly s.quiet := rfl
theorem idleFetch (s : State) (c : ClientId) : s.RingsOnly (s.idleFetch c) := rfl
theorem dropWaiting (s : State) (c : ClientId) : s.RingsOnly (s.dropWaiting c) := rfl
theorem abandonRead (s : State) (c : ClientId) : s.RingsOnly (s.abandonRead c) := rfl
theorem beginFetch (s : State) (c : ClientId) : s.RingsOnly (s.beginFetch c) := rfl

theorem respond (s : State) (c : ClientId) (a : Response) : s.RingsOnly (s.respond c a) := by
  rw [respond_eq]; rfl

theorem notify (s : State) (c : ClientId) (n : Notice) : s.RingsOnly (s.notify c n) := by
  rw [notify_eq, noticedTo]; split <;> rfl

theorem answerWith (s : State) (k : Taken) (status : Status) (body : Body) : s.RingsOnly (s.answerWith k status body) :=
  respond s _ _

theorem answer (s : State) (k : Taken) (status : Status) : s.RingsOnly (s.answer k status) := respond s _ _

theorem answerRef (s : State) (r : CommandRef) (status : Status) : s.RingsOnly (s.answerRef r status) := respond s _ _

theorem answerWaiting (s : State) (w : Option CommandRef) : s.RingsOnly (s.answerWaiting w) := by
  cases w with
  | none => exact refl s
  | some r => exact answerRef s r .ok

theorem drain (s : State) (c : ClientId) : s.RingsOnly (s.drain c) := by
  cases h : (s.client c).muted with
  | true => unfold State.drain; rw [if_pos h]; exact refl s
  | false => rw [drain_eq s c h]; exact withRing s c _

theorem releaseReservation (s : State) (c : ClientId) : s.RingsOnly (s.releaseReservation c) :=
  (setRing s c _).trans (drain _ c)

theorem startWrite (s : State) (c : ClientId) : s.RingsOnly (s.startWrite c) := by
  unfold State.startWrite; split
  · exact (setRing s c _).trans (put _ _)
  · exact refl s

theorem interruptIfArmed (s : State) (c : ClientId) : s.RingsOnly (s.interruptIfArmed c) := by
  unfold State.interruptIfArmed; split
  · exact (setRing s c _).trans (put _ _)
  · exact refl s

theorem settleRead (s : State) (c : ClientId) : s.RingsOnly (s.settleRead c) :=
  (idleFetch s c).trans (releaseReservation _ c)

theorem settleWrite (s : State) (c : ClientId) : s.RingsOnly (s.settleWrite c) :=
  (releaseReservation s c).trans (setRing _ c _)

theorem matchAll (ev : WatchEvent) (ws : List Watch) : ∀ s : State, s.RingsOnly (s.matchAll ev ws) := by
  induction ws with
  | nil => exact refl
  | cons w ws ih =>
    intro s
    refine trans (t := if s.watchMatches ev w then s.notify w.owner (w.notice ev) else s) ?_ (ih _)
    split
    · exact notify s _ _
    · exact refl s

theorem answerRefs (status : Status) (refs : List CommandRef) :
    ∀ s : State, s.RingsOnly (refs.foldl (fun t ref => t.answerRef ref status) s) := by
  induction refs with
  | nil => exact refl
  | cons r refs ih => exact fun s => (answerRef s r status).trans (ih _)

theorem endWrite {c : ClientId} {s t : State} (h : endWrite c s = some t) : s.RingsOnly t := by
  unfold Machine.endWrite at h
  split at h
  · cases h
    have k := (setRing s c (s.ring c).wrote).trans (interruptIfArmed _ c)
    split
    · exact k
    · exact k.trans (startWrite _ c)
  · cases h

theorem returnRead {c : ClientId} {bytes : Record} {s t : State} (h : returnRead c bytes s = some t) : s.RingsOnly t := by
  unfold Machine.returnRead at h
  split at h
  · split at h <;> cases h
    · exact setRing s c _
    · exact settleRead s c
  · cases h
  · cases h

end State.RingsOnly

/-! ## The books: the table, the tokens and the accounts -/

/-- The lock table, its free entries, the pool, the token counter, the hold lists and the wait counts, and the watches stand as
they stood. Every command but those of locks and watches, and an engine reset, leaves them so. -/
structure SameBooks (s t : State) : Prop where
  table : t.table = s.table
  freeEntries : t.freeEntries = s.freeEntries
  nextToken : t.nextToken = s.nextToken
  poolFree : t.poolFree = s.poolFree
  watches : t.watches = s.watches
  holds : ∀ c, (t.account c).holds = (s.account c).holds
  waits : ∀ c, (t.account c).waits = (s.account c).waits

namespace SameBooks

theorem refl (s : State) : SameBooks s s := ⟨rfl, rfl, rfl, rfl, rfl, fun _ => rfl, fun _ => rfl⟩

theorem trans {s t u : State} (h : SameBooks s t) (k : SameBooks t u) : SameBooks s u :=
  ⟨k.table.trans h.table, k.freeEntries.trans h.freeEntries, k.nextToken.trans h.nextToken, k.poolFree.trans h.poolFree,
    k.watches.trans h.watches, fun c => (k.holds c).trans (h.holds c), fun c => (k.waits c).trans (h.waits c)⟩

theorem of_eqs {s t : State} (table : t.table = s.table) (free : t.freeEntries = s.freeEntries) (token : t.nextToken = s.nextToken)
    (pool : t.poolFree = s.poolFree) (watches : t.watches = s.watches) (accounts : t.accounts = s.accounts) : SameBooks s t := by
  refine ⟨table, free, token, pool, watches, ?_, ?_⟩ <;> · intro c; simp only [State.account, accounts]

theorem of_ringsOnly {s t : State} (h : s.RingsOnly t) : SameBooks s t := by
  rw [h]; exact of_eqs rfl rfl rfl rfl rfl rfl

theorem setRing (s : State) (c : ClientId) (r : RingContext) : SameBooks s (s.setRing c r) := of_eqs rfl rfl rfl rfl rfl rfl
theorem setClient (s : State) (c : ClientId) (r : ClientRecord) : SameBooks s (s.setClient c r) := of_eqs rfl rfl rfl rfl rfl rfl
theorem setStanding (s : State) (c : ClientId) (r : Standing) : SameBooks s (s.setStanding c r) := of_eqs rfl rfl rfl rfl rfl rfl
theorem setScore (s : State) (c : ClientId) (n : Nat) : SameBooks s (s.setScore c n) := of_eqs rfl rfl rfl rfl rfl rfl
theorem setRecovery (s : State) (c : ClientId) (n : Nat) : SameBooks s (s.setRecovery c n) := of_eqs rfl rfl rfl rfl rfl rfl
theorem forgetClient (s : State) (c : ClientId) : SameBooks s (s.forgetClient c) := of_eqs rfl rfl rfl rfl rfl rfl
theorem visitedClient (s : State) (c : ClientId) : SameBooks s (s.visitedClient c) := of_eqs rfl rfl rfl rfl rfl rfl
theorem handCharge (s : State) (c : ClientId) (n : Nat) : SameBooks s (s.handCharge c n) := of_eqs rfl rfl rfl rfl rfl rfl
theorem offerFault (s : State) (f : FaultInfo) : SameBooks s (s.offerFault f) := of_eqs rfl rfl rfl rfl rfl rfl
theorem halt (s : State) (cause : HaltCause) : SameBooks s (s.halt cause) := of_eqs rfl rfl rfl rfl rfl rfl
theorem isolate (s : State) (c : ClientId) (w : Option CommandRef) : SameBooks s (s.isolate c w) := of_eqs rfl rfl rfl rfl rfl rfl

theorem respond (s : State) (c : ClientId) (a : Response) : SameBooks s (s.respond c a) := of_ringsOnly (.respond s c a)
theorem notify (s : State) (c : ClientId) (n : Notice) : SameBooks s (s.notify c n) := of_ringsOnly (.notify s c n)
theorem answer (s : State) (k : Taken) (status : Status) : SameBooks s (s.answer k status) := of_ringsOnly (.answer s k status)
theorem answerWith (s : State) (k : Taken) (status : Status) (body : Body) : SameBooks s (s.answerWith k status body) :=
  of_ringsOnly (.answerWith s k status body)

/-- An account changed in its lost tokens or its request count alone. -/
theorem setAccount (s : State) (c : ClientId) (a : Account) (hh : a.holds = (s.account c).holds)
    (hw : a.waits = (s.account c).waits) : SameBooks s (s.setAccount c a) := by
  refine ⟨rfl, rfl, rfl, rfl, rfl, ?_, ?_⟩ <;>
  · intro d
    rw [State.account_setAccount]
    split
    · subst d; assumption
    · rfl

end SameBooks

/-! ## The control side: clients, standing and watches -/

/-- The clients, their standing, the limits, the watches and the engine state stand as they stood, and the token counter has not
gone back. Every lock event leaves them so. -/
structure SameControl (s t : State) : Prop where
  engine : t.engine = s.engine
  clients : t.clients = s.clients
  standings : t.standings = s.standings
  limits : t.limits = s.limits
  watches : t.watches = s.watches
  nextToken : s.nextToken ≤ t.nextToken

namespace SameControl

theorem refl (s : State) : SameControl s s := ⟨rfl, rfl, rfl, rfl, rfl, le_refl _⟩

theorem trans {s t u : State} (h : SameControl s t) (k : SameControl t u) : SameControl s u :=
  ⟨k.engine.trans h.engine, k.clients.trans h.clients, k.standings.trans h.standings, k.limits.trans h.limits,
    k.watches.trans h.watches, h.nextToken.trans k.nextToken⟩

theorem of_ringsOnly {s t : State} (h : s.RingsOnly t) : SameControl s t := by
  rw [h]; exact ⟨rfl, rfl, rfl, rfl, rfl, le_refl _⟩

theorem client {s t : State} (h : SameControl s t) (c : ClientId) : t.client c = s.client c := by
  simp only [State.client, h.clients]

theorem standing {s t : State} (h : SameControl s t) (c : ClientId) : t.standing c = s.standing c := by
  simp only [State.standing, h.standings]

end SameControl

end Sys2Proof.Machine
end

section
/-! PROOFS. Taking a command apart, and the commands that leave the books alone. -/

namespace Sys2Proof.Machine

/-! ## Taking an event apart -/

theorem takeEvent_keeps {P : State → Prop} {s t : State} {k : State → Option State} (hP : P s)
    (hk : ∀ u, s.engine = .running → k s.quiet = some u → P u) (h : takeEvent s k = .next t) : P t := by
  unfold takeEvent at h
  cases h
  split
  · rename_i hr
    rcases hu : k s.quiet with _ | u
    · exact hP
    · exact hk u hr hu
  · exact hP

theorem takeReport_keeps {P : State → Prop} {epoch : Epoch} {s t : State} {o : Host.Outcome State Fault Refusal} (hP : P s)
    (ho : o = .next t → P t) (h : takeReport epoch s o = .next t) : P t := by
  unfold takeReport at h
  split at h
  · exact ho h
  · cases h; exact hP

/-- A lock event leaves the state as it was, or is taken within the tokens, or halts the engine (R17). -/
theorem takeLockEvent_keeps {P : State → Prop} {s t : State} {k : State → Option State} (hP : P s)
    (hk : ∀ u, s.engine = .running → k s.quiet.openBatch = some u → u.nextToken ≤ 2 ^ 64 → P u.closeBatch)
    (hh : s.engine = .running → P (s.quiet.halt .tokenSpace)) (h : takeLockEvent s k = .next t) : P t := by
  refine takeEvent_keeps hP (fun u hr hu => ?_) h
  rcases hv : k s.quiet.openBatch with _ | v
  · rw [hv] at hu; cases hu
  · rw [hv] at hu
    cases hu
    simp only [State.settleTokens]
    split
    · rename_i ht; exact hk v hr hv ht
    · exact hh hr

/-- All that the taking of a record can do: it was in hand, and intake refused it or its owner took it (R122, R123). -/
theorem takeRecord_cases {α : Type} {s t : State} {q : ClientId} {op : Decode.Opcode} {read : Record → Option α}
    {names : α → List Name} {adjust : Limits → α → α} {owner : Taken → α → State → State}
    (h : s.takeRecord q op read names adjust owner = some t) :
    ∃ r, (s.ring q).fetch = .inHand r ∧
      ((∃ status charge, t = s.refuseAtIntake (s.takenAs q r) status charge) ∨
        ∃ f, read r = some f ∧ (op.isCommand = true → q = 0) ∧
          t = owner (s.takenAs q r) (if (s.takenAs q r).cap.isSome then adjust s.limits f else f) (s.idleFetch q)) := by
  unfold State.takeRecord at h
  split at h
  · rename_i r hr
    split at h
    · refine ⟨r, hr, ?_⟩
      rw [Option.some_inj] at h
      unfold State.intake intakeCheck at h
      cases hf : read r with
      | none => rw [hf] at h; exact .inl ⟨_, _, h.symm⟩
      | some f =>
        rw [hf] at h
        dsimp only at h
        split at h
        · rename_i hc
          split at hc
          · cases hc; exact .inl ⟨_, _, h.symm⟩
          · split at hc
            · cases hc
            · cases hc; exact .inl ⟨_, _, h.symm⟩
        · rename_i g hc
          split at hc
          · cases hc
          · rename_i hp
            split at hc
            · cases hc
              exact .inr ⟨f, rfl, fun hop => by by_contra hq; exact hp ⟨hop, hq⟩, h.symm⟩
            · cases hc
    · cases h
  · cases h

/-- A step takes the command in front, or with none lets a unit of time pass. -/
theorem step_cases {s t : State} (h : step s = .next t) :
    t = s.unitPasses ∨ ∃ c rest, s.pending = c :: rest ∧ exec c { s with pending := rest } = .next t := by
  unfold step at h
  split at h
  · cases h; exact .inl rfl
  · rename_i c rest hp; exact .inr ⟨c, rest, hp, h⟩

/-! ## The books under the commands that are not of locks -/

namespace SameBooks

theorem refuseAtIntake (s : State) (k : Taken) (status : Status) (charge : Nat) :
    SameBooks s (s.refuseAtIntake k status charge) :=
  ((of_ringsOnly (.idleFetch s k.client)).trans (handCharge _ _ _)).trans (answer _ k status)

theorem takeRecord {α : Type} {s t : State} {q : ClientId} {op : Decode.Opcode} {read : Record → Option α}
    {names : α → List Name} {adjust : Limits → α → α} {owner : Taken → α → State → State}
    (ho : ∀ k f u, SameBooks u (owner k f u)) (h : s.takeRecord q op read names adjust owner = some t) : SameBooks s t := by
  obtain ⟨r, -, ⟨status, charge, rfl⟩ | ⟨f, -, -, rfl⟩⟩ := takeRecord_cases h
  · exact refuseAtIntake s _ status charge
  · exact (of_ringsOnly (.idleFetch s q)).trans (ho _ _ _)

theorem takeEvent {s t : State} {k : State → Option State} (hk : ∀ u, k s.quiet = some u → SameBooks s.quiet u)
    (h : takeEvent s k = .next t) : SameBooks s t :=
  takeEvent_keeps (P := SameBooks s) (refl s) (fun u _ hu => (of_ringsOnly (.quiet s)).trans (hk u hu)) h

/-- A record command whose owner leaves the books alone. -/
theorem recordEvent {α : Type} {s t : State} {q : ClientId} {op : Decode.Opcode} {read : Record → Option α}
    {names : α → List Name} {adjust : Limits → α → α} {owner : Taken → α → State → State}
    (ho : ∀ k f u, SameBooks u (owner k f u))
    (h : Machine.takeEvent s (fun u => u.takeRecord q op read names adjust owner) = .next t) : SameBooks s t :=
  takeEvent (fun _ hu => takeRecord ho hu) h

theorem report {epoch : Epoch} {s t : State} {o : Host.Outcome State Fault Refusal} (ho : o = .next t → SameBooks s t)
    (h : takeReport epoch s o = .next t) : SameBooks s t := takeReport_keeps (refl s) ho h

theorem ite {s t u : State} {p : Prop} [Decidable p] (h : p → SameBooks s t) (k : ¬ p → SameBooks s u) :
    SameBooks s (if p then t else u) := by
  split
  · exact h ‹_›
  · exact k ‹_›

theorem emitHold (s : State) (k : EventKind) (n : Name) (h : Holder) : SameBooks s (s.emitHold k n h) :=
  of_eqs rfl rfl rfl rfl rfl rfl
theorem handCredit (s : State) (c : ClientId) : SameBooks s (s.handCredit c) := of_eqs rfl rfl rfl rfl rfl rfl
theorem loseToken (s : State) (c : ClientId) (t : Token) : SameBooks s (s.loseToken c t) := setAccount s c _ rfl rfl

/-! ### Standing -/

theorem regrade (s : State) (c : ClientId) : SameBooks s (s.regrade c) := by
  unfold State.regrade
  refine ite (fun _ => refl s) (fun _ => ite (fun _ => setStanding _ _ _) (fun _ => ite (fun _ => ?_) (fun _ => ?_)))
  · exact ((setStanding _ _ _).trans (notify _ _ _)).trans (notify _ _ _)
  · exact (setStanding _ _ _).trans (notify _ _ _)

theorem regradeAll (s : State) : SameBooks s s.regradeAll := by
  unfold State.regradeAll
  generalize Config.allClients = cs
  induction cs generalizing s with
  | nil => exact refl s
  | cons c cs ih =>
    refine trans ?_ (ih _)
    exact ite (fun _ => refl s) (fun _ => regrade s c)

theorem limitsTaken (k : Taken) (f : Decode.LimitFields) (s : State) : SameBooks s (limitsTaken k f s) := by
  refine ite (fun _ => ?_) (fun _ => answer s k _)
  refine trans ?_ ((regradeAll _).trans (answer _ k _))
  exact of_eqs rfl rfl rfl rfl rfl rfl

theorem applyCharge (s : State) (c : ClientId) (n : Nat) : SameBooks s (s.applyCharge c n) := by
  have h := fun n => (setScore s c n).trans (regrade _ c)
  unfold State.applyCharge
  exact ite (fun _ => refl s) (fun _ => ite (fun _ => (h _).trans (isolate _ _ _)) (fun _ => h _))

theorem applyCredit (s : State) (c : ClientId) : SameBooks s (s.applyCredit c) :=
  ite (fun _ => refl s) (fun _ => ite (fun _ => refl s) (fun _ => (setScore s c _).trans (regrade _ c)))

theorem takeCharge {c : ClientId} {n : Nat} {s t : State} (h : takeCharge c n s = some t) : SameBooks s t := by
  unfold Machine.takeCharge at h
  split at h <;> cases h
  refine trans ?_ (applyCharge _ c n)
  exact of_eqs rfl rfl rfl rfl rfl rfl

theorem takeCredit {c : ClientId} {s t : State} (h : takeCredit c s = some t) : SameBooks s t := by
  unfold Machine.takeCredit at h
  split at h <;> cases h
  refine trans ?_ (applyCredit _ c)
  exact of_eqs rfl rfl rfl rfl rfl rfl

/-! ### Clients -/

theorem onClient (s : State) (k : Taken) (target : ClientId) (body : State → State) (h : SameBooks s (body s)) :
    SameBooks s (s.onClient k target body) :=
  ite (fun _ => answer s k _) (fun _ => ite (fun _ => answer s k _) (fun _ => h))

theorem setStandingTaken (k : Taken) (f : Decode.StandingFields) (s : State) : SameBooks s (setStandingTaken k f s) := by
  refine ite (fun _ => answer s k _) (fun _ => ite (fun _ => answer s k _) (fun _ => ite (fun _ => answer s k _) (fun _ => ?_)))
  exact ((((setScore s _ _).trans (setRecovery _ _ _)).trans (setClient _ _ _)).trans (regrade _ _)).trans (answer _ k _)

theorem configureTaken (k : Taken) (f : Decode.ConfigureFields) (s : State) : SameBooks s (configureTaken k f s) :=
  onClient s k f.target _ (ite (fun _ => answer s k _) (fun _ => ite (fun _ => answer s k _) (fun _ => setClient s _ _)))

theorem enableTaken (k : Taken) (c : ClientId) (s : State) : SameBooks s (enableTaken k c s) :=
  onClient s k c _ (ite (fun _ => answer s k _) (fun _ => ite (fun _ => (setClient s c _).trans (answer _ k _)) (fun _ =>
    ite (fun _ => isolate s c _) (fun _ => (setClient s c _).trans (answer _ k _)))))

theorem disableTaken (k : Taken) (c : ClientId) (s : State) : SameBooks s (disableTaken k c s) :=
  onClient s k c _ (ite
    (fun _ => ((setClient s c _).trans (of_ringsOnly (.abandonRead _ c))).trans (answer _ k _))
    (fun _ => ite (fun _ => ((setClient s c _).trans (forgetClient _ c)).trans (answer _ k _)) (fun _ => answer s k _)))

theorem resetTaken (k : Taken) (c : ClientId) (s : State) : SameBooks s (resetTaken k c s) :=
  onClient s k c _ (ite (fun _ => answer s k _) (fun _ =>
    (((setClient s c _).trans (setRecovery _ c 0)).trans (forgetClient _ c)).trans (of_ringsOnly (.dropWaiting _ c))))

theorem reinstateTaken (k : Taken) (c : ClientId) (s : State) : SameBooks s (reinstateTaken k c s) :=
  onClient s k c _ (ite (fun _ => answer s k _) (fun _ =>
    ((setClient s c _).trans (setRecovery _ c _)).trans (answer _ k _)))

theorem swapRings {c : ClientId} {s t : State} (h : swapRings c s = some t) : SameBooks s t := by
  obtain ⟨w, -, -, -, rfl⟩ := swapRings_cases h
  exact ((setRing s c _).trans (setClient _ c _)).trans (of_ringsOnly (.answerRefs .ok w.waiting _))

/-! ### The Queue Unit -/

theorem postTaken {c : ClientId} {k : State → Option State} {s t : State} (hk : k s = some t → SameBooks s t)
    (h : postTaken c k s = some t) : SameBooks s t := by
  unfold Machine.postTaken at h
  split at h
  · cases h
  · exact hk h

theorem submitPost {c : ClientId} {index : BitVec 12} {s t : State} (h : submitPost c index s = some t) : SameBooks s t := by
  unfold Machine.submitPost at h
  split at h <;> cases h
  exact setRing s c _

theorem consumedPost {c : ClientId} {index : BitVec 12} {s t : State} (h : consumedPost c index s = some t) : SameBooks s t := by
  simp only [Machine.consumedPost] at h
  split at h <;> cases h
  · exact (setRing s c _).trans (of_ringsOnly (.drain _ c))
  · exact handCharge s c _

theorem armPost {c : ClientId} {s t : State} (h : armPost c s = some t) : SameBooks s t := by
  cases h; exact setRing s c _

theorem fetchNext {s t : State} (h : fetchNext s = some t) : SameBooks s t := by
  unfold Machine.fetchNext at h
  split at h
  · split at h <;> cases h
    refine trans ?_ (of_ringsOnly (.beginFetch _ _))
    exact of_eqs rfl rfl rfl rfl rfl rfl
  · cases h

theorem refuseUnknown {q : ClientId} {s t : State} (h : refuseUnknown q s = some t) : SameBooks s t := by
  unfold Machine.refuseUnknown at h
  split at h
  · split at h <;> cases h
    exact refuseAtIntake s _ _ _
  · cases h

/-! ### The Lease Clock -/

theorem tickArrives (s : State) : SameBooks s s.tickArrives :=
  ite (fun _ => ite (fun _ => of_eqs rfl rfl rfl rfl rfl rfl) (fun _ => of_eqs rfl rfl rfl rfl rfl rfl))
    (fun _ => of_eqs rfl rfl rfl rfl rfl rfl)

theorem unitPasses (s : State) : SameBooks s s.unitPasses :=
  ite (fun _ => ite (fun _ => of_eqs rfl rfl rfl rfl rfl rfl)
    (fun _ => (of_ringsOnly (.quiet s)).trans (tickArrives s.quiet))) (fun _ => refl s)

theorem startOwed {s t : State} (h : s.startOwed = some t) : SameBooks s t := by
  unfold State.startOwed at h
  split at h
  · cases h
  · split at h <;> cases h
    exact of_eqs rfl rfl rfl rfl rfl rfl

theorem completeRecovery (s : State) (c : ClientId) : SameBooks s (s.completeRecovery c) :=
  (((((setRecovery s c 0).trans (setStanding _ c _)).trans (setClient _ c _)).trans (forgetClient _ c)).trans
    (notify _ _ _)).trans (notify _ _ _)

theorem visitRecovering {c : ClientId} {s t : State} (h : visitRecovering c s = some t) : SameBooks s t := by
  unfold Machine.visitRecovering at h
  split at h
  · split at h <;> cases h
    · exact (visitedClient s c).trans (completeRecovery _ c)
    · exact (visitedClient s c).trans (setRecovery _ c _)
  · cases h

theorem completeVisit {c : ClientId} {s t : State} (h : completeVisit c s = some t) : SameBooks s t := by
  unfold Machine.completeVisit at h
  split at h <;> cases h
  exact (visitedClient s c).trans (completeRecovery _ c)

theorem timebaseTaken (k : Taken) (n : Nat) (s : State) : SameBooks s (timebaseTaken k n s) := by
  refine trans ?_ (answer _ k _)
  exact of_eqs rfl rfl rfl rfl rfl rfl

/-! ### Teardowns -/

theorem clearForReset (s : State) (c : ClientId) : SameBooks s (s.clearForReset c) :=
  (((setAccount s c { s.account c with expired := [] } rfl rfl).trans (setStanding _ c _)).trans (setRing _ c _)).trans
    (setClient _ c _)

theorem finishTeardown (s : State) (c : ClientId) (t : Teardown) : SameBooks s (s.finishTeardown c t) := by
  unfold State.finishTeardown
  cases t.cause with
  | reset => exact (clearForReset s c).trans (of_ringsOnly (.answerWaiting _ _))
  | halt => exact (setClient s c _).trans (of_ringsOnly (.answerWaiting _ _))
  | isolation =>
    exact trans (ite (fun _ => (setClient s c _).trans (notify _ _ _)) (fun _ => setClient s c _))
      (of_ringsOnly (.answerWaiting _ _))

theorem endTeardownStep {c : ClientId} {s t : State} (h : endTeardownStep c s = some t) : SameBooks s t := by
  unfold Machine.endTeardownStep at h
  split at h
  · cases h
  · split at h <;> cases h
    exact finishTeardown s c _

/-! ### Faults -/

theorem haltClient (s : State) (c : ClientId) : SameBooks s (s.haltClient c) :=
  ((setClient s c _).trans (forgetClient _ c)).trans (of_ringsOnly (.dropWaiting _ c))

theorem clientFault (s : State) (f : FaultInfo) : SameBooks s (s.clientFault f) :=
  ite (fun _ => offerFault s f) (fun _ => ((offerFault s f).trans (haltClient _ _)).trans (notify _ _ _))

theorem failSwap (s : State) (c : ClientId) : SameBooks s (s.failSwap c) := by
  unfold State.failSwap
  split
  · exact refl s
  · exact (setClient s c _).trans (of_ringsOnly (.answerRefs .clientBusy _ _))

theorem offerOnly (s : State) (f : FaultInfo) : SameBooks s (offerOnly s f) :=
  (of_ringsOnly (.quiet s)).trans (offerFault _ f)

theorem clientReadFault (c : ClientId) (kind : FaultKind) (s : State) : SameBooks s (clientReadFault c kind s) := by
  unfold Machine.clientReadFault
  split
  · exact refl s
  · exact refl s
  · refine ite (fun _ => refl s) (fun _ => ?_)
    split
    · exact (of_ringsOnly ((State.RingsOnly.quiet s).trans (.settleRead _ c))).trans (clientFault _ _)
    · exact offerOnly s _
    · exact refl s

theorem clientWriteFault (c : ClientId) (kind : FaultKind) (s : State) : SameBooks s (clientWriteFault c kind s) := by
  unfold Machine.clientWriteFault
  split
  · exact refl s
  · refine ite (fun _ => refl s) (fun _ => ?_)
    split
    · exact ((of_ringsOnly ((State.RingsOnly.quiet s).trans (.settleWrite _ c))).trans (clientFault _ _)).trans (failSwap _ c)
    · exact offerOnly s _
    · exact refl s

theorem controlReadFault (kind : FaultKind) (s : State) : SameBooks s (controlReadFault kind s) := by
  unfold Machine.controlReadFault
  split
  · exact refl s
  · exact refl s
  · split
    · exact (((of_ringsOnly (.quiet s)).trans (setRing _ 0 _)).trans (offerFault _ _)).trans (halt _ _)
    · exact offerOnly s _
    · exact refl s

theorem controlWriteFault (kind : FaultKind) (s : State) : SameBooks s (controlWriteFault kind s) := by
  unfold Machine.controlWriteFault
  split
  · exact refl s
  · split
    · exact (((of_ringsOnly (.quiet s)).trans (setRing _ 0 _)).trans (offerFault _ _)).trans (halt _ _)
    · exact offerOnly s _
    · exact refl s

theorem startEngine (s : State) : SameBooks s (startEngine s) :=
  ite (fun _ => ite (fun _ => of_eqs rfl rfl rfl rfl rfl rfl) (fun _ => of_eqs rfl rfl rfl rfl rfl rfl)) (fun _ => refl s)

end SameBooks

end Sys2Proof.Machine
end

section
/-! PROOFS. The lock events leave the control side alone. -/

namespace Sys2Proof.Machine

namespace SameControl

/-- A change of the lock side alone: what the law speaks of is there to see. -/
theorem of_eqs {s t : State} (engine : t.engine = s.engine) (clients : t.clients = s.clients)
    (standings : t.standings = s.standings) (limits : t.limits = s.limits) (watches : t.watches = s.watches)
    (token : t.nextToken = s.nextToken) : SameControl s t :=
  ⟨engine, clients, standings, limits, watches, token.ge⟩

theorem respond (s : State) (c : ClientId) (a : Response) : SameControl s (s.respond c a) := of_ringsOnly (.respond s c a)
theorem notify (s : State) (c : ClientId) (n : Notice) : SameControl s (s.notify c n) := of_ringsOnly (.notify s c n)
theorem answer (s : State) (k : Taken) (status : Status) : SameControl s (s.answer k status) := of_ringsOnly (.answer s k status)
theorem answerWith (s : State) (k : Taken) (status : Status) (body : Body) : SameControl s (s.answerWith k status body) :=
  of_ringsOnly (.answerWith s k status body)
theorem handCharge (s : State) (c : ClientId) (n : Nat) : SameControl s (s.handCharge c n) := of_eqs rfl rfl rfl rfl rfl rfl
theorem handCredit (s : State) (c : ClientId) : SameControl s (s.handCredit c) := of_eqs rfl rfl rfl rfl rfl rfl
theorem setAccount (s : State) (c : ClientId) (a : Account) : SameControl s (s.setAccount c a) := of_eqs rfl rfl rfl rfl rfl rfl
theorem emit (s : State) (ev : WatchEvent) : SameControl s (s.emit ev) := of_eqs rfl rfl rfl rfl rfl rfl
theorem storeEntry (s : State) (e : LockEntry) : SameControl s (s.storeEntry e) := of_eqs rfl rfl rfl rfl rfl rfl
theorem removeEntry (s : State) (name : Name) : SameControl s (s.removeEntry name) := of_eqs rfl rfl rfl rfl rfl rfl
theorem drawToken (s : State) : SameControl s s.drawToken := ⟨rfl, rfl, rfl, rfl, rfl, Nat.le_succ _⟩

theorem ite {s t u : State} {p : Prop} [Decidable p] (h : p → SameControl s t) (k : ¬ p → SameControl s u) :
    SameControl s (if p then t else u) := by
  split
  · exact h ‹_›
  · exact k ‹_›

theorem refuseAtIntake (s : State) (k : Taken) (status : Status) (charge : Nat) :
    SameControl s (s.refuseAtIntake k status charge) :=
  ((of_ringsOnly (.idleFetch s k.client)).trans (handCharge _ _ _)).trans (answer _ k status)

theorem takeRecord {α : Type} {s t : State} {q : ClientId} {op : Decode.Opcode} {read : Record → Option α}
    {names : α → List Name} {adjust : Limits → α → α} {owner : Taken → α → State → State}
    (ho : ∀ k f u, SameControl u (owner k f u)) (h : s.takeRecord q op read names adjust owner = some t) : SameControl s t := by
  obtain ⟨r, -, ⟨status, charge, rfl⟩ | ⟨f, -, -, rfl⟩⟩ := takeRecord_cases h
  · exact refuseAtIntake s _ status charge
  · exact (of_ringsOnly (.idleFetch s q)).trans (ho _ _ _)

/-! ### An event in progress at an entry -/

theorem returnWaiter (s : State) (x : Waiter) : SameControl s (s.returnWaiter x) := of_eqs rfl rfl rfl rfl rfl rfl

theorem endWaiter (s : State) (x : Waiter) (status : Status) : SameControl s (s.endWaiter x status) :=
  (returnWaiter s x).trans (respond _ _ _)

theorem endUpgrade (w : AtEntry) (u : PendingUpgrade) (status : Status) : SameControl w.state (w.endUpgrade u status).state :=
  (setAccount w.state u.client _).trans (respond _ _ _)

theorem endUpgradeOfSlot (w : AtEntry) (i : SlotId) (status : State → ClientId → Status) :
    SameControl w.state (w.endUpgradeOfSlot i status).state := by
  unfold AtEntry.endUpgradeOfSlot
  split
  · split
    · exact endUpgrade w _ _
    · exact refl _
  · exact refl _

theorem grantHold (w : AtEntry) (c : ClientId) (m : Mode) (lease : Nat) (tag : Tag) :
    SameControl w.state (w.grantHold c m lease tag).state := by
  unfold AtEntry.grantHold
  split
  · exact refl _
  · exact (drawToken _).trans (setAccount _ _ _)

theorem grantWaiter (w : AtEntry) (x : Waiter) : SameControl w.state (w.grantWaiter x).state :=
  (((grantHold w x.client x.mode x.lease x.tag).trans (returnWaiter _ x)).trans (respond _ _ _)).trans (emit _ _)

theorem convert (w : AtEntry) (u : PendingUpgrade) (h : Holder) : SameControl w.state (w.convert u h).state :=
  (setAccount w.state u.client _).trans (respond _ _ _)

theorem passWaiters (xs : List Waiter) : ∀ w : AtEntry, SameControl w.state (passWaiters xs w).state := by
  induction xs with
  | nil => exact fun w => refl w.state
  | cons x rest ih =>
    intro w
    unfold Machine.passWaiters
    split
    · exact (endWaiter w.state x _).trans (ih (w.onState fun s => s.endWaiter x (.cancelled .isolation)))
    · split
      · split
        · exact (endWaiter w.state x _).trans (ih (w.onState fun s => s.endWaiter x .quotaHolds))
        · exact (grantWaiter w x).trans (ih _)
      · exact refl w.state

theorem grantPass (w : AtEntry) : SameControl w.state w.grantPass.state := by
  unfold AtEntry.grantPass
  split
  · exact passWaiters _ w
  · split
    · exact (endUpgrade w _ _).trans (passWaiters _ _)
    · split
      · split
        · exact convert w _ _
        · exact refl _
      · exact refl _

theorem close (w : AtEntry) : SameControl w.state w.close :=
  ite (fun _ => removeEntry _ _) (fun _ => storeEntry _ _)

theorem passAndClose (w : AtEntry) : SameControl w.state w.passAndClose := (grantPass w).trans (close _)

theorem grantAtOnce (w : AtEntry) (c : ClientId) (m : Mode) (lease : Nat) (tag : Tag) :
    SameControl w.state (w.grantAtOnce c m lease tag).state :=
  (grantHold w c m lease tag).trans (emit _ _)

theorem insert (w : AtEntry) (x : Waiter) : SameControl w.state (w.insert x).state := by
  unfold AtEntry.insert
  have h : SameControl w.state (({ w.state with poolFree := w.state.poolFree - 1 }).addWait x.client) :=
    of_eqs rfl rfl rfl rfl rfl rfl
  extract_lets w1
  split
  · exact h.trans (grantPass w1)
  · exact h

/-- A hold is taken away, by whatever event. -/
theorem takenAway (w : AtEntry) (i : SlotId) (h : Holder) (f : State → State) (status : State → ClientId → Status)
    (hf : ∀ s, SameControl s (f s)) :
    SameControl w.state (((w.removeHold i h).onState f).endUpgradeOfSlot i status).passAndClose :=
  (((setAccount w.state h.client _).trans (hf _)).trans (endUpgradeOfSlot ((w.removeHold i h).onState f) i status)).trans
    (passAndClose _)

theorem revoke (w : AtEntry) (i : SlotId) (h : Holder) (status : State → ClientId → Status) :
    SameControl w.state (w.revoke i h status) :=
  takenAway w i h _ status fun s => ((setAccount s _ _).trans (emit _ _)).trans (notify _ _ _)

theorem endWaiterThere (w : AtEntry) (x : Waiter) (status : Status) : SameControl w.state (w.endWaiterThere x status) :=
  (endWaiter w.state x status).trans (ite
    (fun _ => passAndClose { entry := w.entry.dropWaiter x.client, state := w.state.endWaiter x status })
    (fun _ => close { entry := w.entry.dropWaiter x.client, state := w.state.endWaiter x status }))

theorem endUpgradeThere (w : AtEntry) (u : PendingUpgrade) (status : Status) :
    SameControl w.state (w.endUpgradeThere u status) :=
  (endUpgrade w u status).trans (passAndClose _)

/-! ### The owners of the lock records -/

theorem countRequest (s : State) (c : ClientId) : SameControl s (s.countRequest c) := setAccount s c _

theorem grantName (s : State) (c : ClientId) (name : Name) (m : Mode) (lease : Nat) (tag : Tag) :
    SameControl s (s.grantName c name m lease tag) := by
  unfold State.grantName
  split
  · exact (grantAtOnce { entry := _, state := s } c m lease tag).trans (storeEntry _ _)
  · refine trans (t := { s with freeEntries := s.freeEntries - 1 }) (of_eqs rfl rfl rfl rfl rfl rfl) ?_
    exact (grantAtOnce { entry := LockEntry.fresh name m, state := { s with freeEntries := s.freeEntries - 1 } } c m lease tag).trans
      (storeEntry _ _)

theorem acquireBlocked (k : Taken) (f : Decode.AcquireFields) (lease : Nat) (e : LockEntry) (s : State) :
    SameControl s (acquireBlocked k f lease e s) :=
  ite (fun _ => (storeEntry s _).trans (answerWith _ k _ _)) (fun _ => ite (fun _ => (storeEntry s _).trans (answer _ k _))
    (fun _ => ite (fun _ => (storeEntry s _).trans (answer _ k _)) (fun _ => (insert { entry := e, state := s } _).trans (close _))))

theorem acquireTaken (k : Taken) (f : Decode.AcquireFields) (s : State) : SameControl s (acquireTaken k f s) := by
  refine (countRequest s k.client).trans ?_
  have grant := fun lease => (grantName (s.countRequest k.client) k.client f.name f.mode lease k.tag).trans
    (answerWith _ k .granted (.granted (s.countRequest k.client).token lease 0 none 1))
  unfold Machine.acquireTaken
  extract_lets u lease g
  split
  · exact ite (fun _ => answer _ k _) (fun _ => ite (fun _ => answer _ k _) (fun _ => ite (fun _ => answer _ k _)
      (fun _ => ite (fun _ => grant _) (fun _ => acquireBlocked k f _ _ _))))
  · exact ite (fun _ => answer _ k _) (fun _ => ite (fun _ => answer _ k _) (fun _ => grant _))

theorem contendAll (ps : List (Name × Mode)) : ∀ s : State, SameControl s (s.contendAll ps) := by
  induction ps with
  | nil => exact refl
  | cons p ps ih =>
    intro s
    refine trans ?_ (ih (s.contendAt p.1))
    unfold State.contendAt
    split
    · exact storeEntry s _
    · exact refl s

theorem grantAll (c : ClientId) (lease : Nat) (tag : Tag) (ps : List (Name × Mode)) :
    ∀ s : State, SameControl s (s.grantAll c ps lease tag) := by
  induction ps with
  | nil => exact refl
  | cons p ps ih => exact fun s => (grantName s c p.1 p.2 lease tag).trans (ih _)

theorem setTaken (k : Taken) (f : Decode.SetFields) (s : State) : SameControl s (setTaken k f s) := by
  unfold Machine.setTaken
  refine ite (fun _ => (handCharge s _ _).trans (answer _ k _)) (fun _ => ?_)
  split
  · exact answer s k _
  · exact ite (fun _ => answer s k _) (fun _ => ite (fun _ => answer s k _) (fun _ => ite
      (fun _ => (contendAll _ s).trans (answerWith _ k _ _)) (fun _ => (grantAll _ _ _ _ s).trans (answerWith _ k _ _))))

theorem answerLost (s : State) (k : Taken) (t : Token) : SameControl s (s.answerLost k t) :=
  ite (fun _ => answer s k _) (fun _ => (handCharge s _ _).trans (answer _ k _))

theorem releaseTaken (k : Taken) (f : Decode.HoldFields) (s : State) : SameControl s (releaseTaken k f s) := by
  unfold Machine.releaseTaken
  split
  · exact takenAway { entry := _, state := s } _ _ _ _ fun s => ((emit s _).trans (handCredit _ _)).trans (answer _ k .ok)
  · exact answerLost s k _

theorem renewTaken (k : Taken) (f : Decode.RenewFields) (s : State) : SameControl s (renewTaken k f s) := by
  unfold Machine.renewTaken
  split
  · exact (storeEntry s _).trans (answerWith _ k _ _)
  · exact answerLost s k _

theorem upgradeTaken (k : Taken) (f : Decode.UpgradeFields) (s : State) : SameControl s (upgradeTaken k f s) := by
  refine (countRequest s k.client).trans ?_
  unfold Machine.upgradeTaken
  extract_lets u
  split
  · exact ite (fun _ => answer _ k _) (fun _ => ite (fun _ => (storeEntry _ _).trans (answerWith _ k _ _)) (fun _ =>
      ite (fun _ => answer _ k _) (fun _ => ite (fun _ => (storeEntry _ _).trans (answerWith _ k _ _)) (fun _ =>
        ite (fun _ => (storeEntry _ _).trans (answer _ k _)) (fun _ => (storeEntry _ _).trans (setAccount _ _ _))))))
  · exact answerLost _ k _

theorem downgradeTaken (k : Taken) (f : Decode.HoldFields) (s : State) : SameControl s (downgradeTaken k f s) := by
  unfold Machine.downgradeTaken
  split
  · exact ite (fun _ => answer s k _) (fun _ => (answer s k .ok).trans (passAndClose { entry := _, state := s.answer k .ok }))
  · exact answerLost s k _

theorem forceReleaseTaken (k : Taken) (f : Decode.HoldFields) (s : State) : SameControl s (forceReleaseTaken k f s) := by
  unfold Machine.forceReleaseTaken
  split
  · exact (revoke { entry := _, state := s } _ _ _).trans (answer _ k _)
  · exact answer s k _

theorem cancelTaken (k : Taken) (t : Tag) (s : State) : SameControl s (cancelTaken k t s) := by
  unfold Machine.cancelTaken
  split
  · refine trans ?_ (answer _ k _)
    unfold State.cancelAt
    split
    · exact refl s
    · split
      · split
        · exact endUpgradeThere { entry := _, state := s } _ _
        · exact refl s
      · split
        · exact endWaiterThere { entry := _, state := s } _ _
        · exact refl s
  · exact answer s k _

theorem queryLockTaken (k : Taken) (name : Name) (s : State) : SameControl s (queryLockTaken k name s) := by
  unfold Machine.queryLockTaken
  split
  · exact answerWith s k _ _
  · exact answer s k _

/-! ### The events of the Lease Clock and of teardowns -/

theorem leaseExpiryAt {name : Name} {token : Token} {s t : State} (h : leaseExpiryAt name token s = some t) : SameControl s t := by
  unfold Machine.leaseExpiryAt at h
  split at h
  · cases h
  · split at h <;> cases h
    exact takenAway { entry := _, state := s } _ _ _ _ fun s =>
      (((setAccount s _ _).trans (emit _ _)).trans (handCharge _ _ _)).trans (notify _ _ _)

theorem waitExpiryAt {name : Name} {c : ClientId} {tag : Tag} {s t : State} (h : waitExpiryAt name c tag s = some t) :
    SameControl s t := by
  unfold Machine.waitExpiryAt at h
  split at h
  · cases h
  · split at h <;> cases h
    exact endWaiterThere { entry := _, state := s } _ _

theorem upgradeWaitExpiryAt {name : Name} {tag : Tag} {s t : State} (h : upgradeWaitExpiryAt name tag s = some t) :
    SameControl s t := by
  unfold Machine.upgradeWaitExpiryAt at h
  split at h
  · cases h
  · split at h <;> cases h
    exact endUpgradeThere { entry := _, state := s } _ _

theorem removeWaiterStep {c : ClientId} {name : Name} {s t : State} (h : removeWaiterStep c name s = some t) :
    SameControl s t := by
  unfold Machine.removeWaiterStep at h
  split at h
  · split at h
    · split at h <;> cases h
      exact endWaiterThere { entry := _, state := s } _ _
    · cases h
  · cases h

theorem removeUpgradeStep {c : ClientId} {name : Name} {s t : State} (h : removeUpgradeStep c name s = some t) :
    SameControl s t := by
  unfold Machine.removeUpgradeStep at h
  split at h
  · split at h
    · split at h <;> cases h
      exact endUpgradeThere { entry := _, state := s } _ _
    · cases h
  · cases h

theorem revokeHoldStep {c : ClientId} {s t : State} (h : revokeHoldStep c s = some t) : SameControl s t := by
  unfold Machine.revokeHoldStep at h
  split at h
  · split at h
    · cases h
    · split at h
      · split at h <;> cases h
        · exact revoke { entry := _, state := s } _ _ _
        · exact setAccount s c _
      · cases h; exact setAccount s c _
  · cases h

theorem visitEntry {name : Name} {s t : State} (h : visitEntry name s = some t) : SameControl s t := by
  unfold Machine.visitEntry at h
  split at h
  · split at h <;> cases h
    exact of_eqs rfl rfl rfl rfl rfl rfl
  · cases h

end SameControl

end Sys2Proof.Machine
end

section
/-! PROOFS. Lock entries in the middle of an event, and the table as a list of entries. -/

namespace Sys2Proof.Machine

namespace LockEntry

/-! ## Counting holds -/

theorem slots_setSlot (e : LockEntry) (i j : SlotId) (v : Option Holder) :
    (e.setSlot i v).slots[j] = if j = i then v else e.slots[j] := by
  simp [setSlot, Vector.getElem_set, Fin.ext_iff, eq_comm]

theorem slots_setSlot_self (e : LockEntry) (i : SlotId) (v : Option Holder) : (e.setSlot i v).slots[i] = v := by
  rw [slots_setSlot, if_pos rfl]

@[simp] theorem name_setSlot (e : LockEntry) (i : SlotId) (v : Option Holder) : (e.setSlot i v).name = e.name := rfl
@[simp] theorem mode_setSlot (e : LockEntry) (i : SlotId) (v : Option Holder) : (e.setSlot i v).mode = e.mode := rfl
@[simp] theorem waiters_setSlot (e : LockEntry) (i : SlotId) (v : Option Holder) : (e.setSlot i v).waiters = e.waiters := rfl
@[simp] theorem upgrade_setSlot (e : LockEntry) (i : SlotId) (v : Option Holder) : (e.setSlot i v).upgrade = e.upgrade := rfl
@[simp] theorem contention_setSlot (e : LockEntry) (i : SlotId) (v : Option Holder) : (e.setSlot i v).contention = e.contention := rfl

theorem holds_eq_card (e : LockEntry) : e.holds = (Finset.univ.filter (fun i : SlotId => (e.slots[i]).isSome)).card := by
  have h : Config.allSlots = List.finRange 8 := by decide
  rw [holds, slots_toList, List.filter_map, List.length_map, h]
  change _ = (List.filter (fun i : SlotId => decide ((e.slots[i]).isSome = true)) (List.finRange 8)).length
  simp only [Bool.decide_eq_true]
  rfl

theorem holds_pos_iff (e : LockEntry) : 1 ≤ e.holds ↔ ∃ (i : SlotId) (h : Holder), e.slots[i] = some h := by
  rw [holds_eq_card, Nat.one_le_iff_ne_zero, Nat.ne_zero_iff_zero_lt, Finset.card_pos]
  simp [Finset.Nonempty, Option.isSome_iff_exists]

theorem holds_zero_iff (e : LockEntry) : e.holds = 0 ↔ ∀ i : SlotId, e.slots[i] = none := by
  rw [holds_eq_card, Finset.card_eq_zero, Finset.filter_eq_empty_iff]
  simp

theorem holds_le_one_iff (e : LockEntry) :
    e.holds ≤ 1 ↔ ∀ (i j : SlotId) (h k : Holder), e.slots[i] = some h → e.slots[j] = some k → i = j := by
  rw [holds_eq_card, Finset.card_le_one]
  simp only [Finset.mem_filter, Finset.mem_univ, true_and, Option.isSome_iff_exists]
  exact ⟨fun H i j h k hi hj => H i ⟨h, hi⟩ j ⟨k, hj⟩, fun H i ⟨h, hi⟩ j ⟨k, hj⟩ => H i j h k hi hj⟩

/-- An entry with the same slots occupied has as many holds. -/
theorem holds_congr {e d : LockEntry} (h : ∀ i : SlotId, (d.slots[i]).isSome = (e.slots[i]).isSome) : d.holds = e.holds := by
  simp only [holds_eq_card, h]

theorem holds_setSlot_some {e : LockEntry} {i : SlotId} {h : Holder} (hs : e.slots[i] = some h) (k : Holder) :
    (e.setSlot i (some k)).holds = e.holds := by
  refine holds_congr fun j => ?_
  rw [slots_setSlot]
  split
  · subst j; rw [hs]; rfl
  · rfl

theorem exists_lowestFree {e : LockEntry} {i : SlotId} (h : e.slots[i] = none) : ∃ j, e.lowestFree j := by
  rw [← freeSlot_isSome, freeSlot?, List.find?_isSome]
  exact ⟨i, mem_allSlots i, by rw [h]; rfl⟩

/-! ## The law of an entry in the middle of an event -/

/-- What holds of an entry throughout an event at it: all of the law but that it has a holder and what becomes of its pending
upgrade. -/
structure Draft (e : LockEntry) : Prop where
  alone : e.mode = .exclusive → e.holds ≤ 1
  modes : ∀ (i : SlotId) (h : Holder), e.slots[i] = some h → h.mode = e.mode
  oneHold : ∀ (i j : SlotId) (h k : Holder), e.slots[i] = some h → e.slots[j] = some k → h.client = k.client → i = j
  holdOrWait : ∀ (i : SlotId) (h : Holder), e.slots[i] = some h → ∀ w ∈ e.waiters, w.client ≠ h.client
  oneWait : (e.waiters.map (fun w => w.client)).Nodup
  ordered : e.waiters.Pairwise (fun a b => a.priority ≤ b.priority)

/-- The pending upgrade, if there is one, belongs to a SHARED hold of its client (R7). -/
def Anchored (e : LockEntry) : Prop :=
  ∀ u, e.upgrade = some u → e.mode = .shared ∧ ∃ h, e.slots[u.slot] = some h ∧ h.client = u.client

theorem Lawful.draft {e : LockEntry} (h : e.Lawful) : e.Draft :=
  ⟨fun m => (h.alone m).le, h.modes, h.oneHold, h.holdOrWait, h.oneWait, h.ordered⟩

theorem Lawful.anchored {e : LockEntry} (h : e.Lawful) : e.Anchored := fun u hu => ⟨(h.upgrade u hu).1, (h.upgrade u hu).2.2⟩

theorem Draft.lawful {e : LockEntry} (h : e.Draft) (held : 1 ≤ e.holds)
    (upgrade : ∀ u, e.upgrade = some u → e.mode = .shared ∧ 2 ≤ e.holds ∧ ∃ h, e.slots[u.slot] = some h ∧ h.client = u.client) :
    e.Lawful :=
  ⟨held, fun m => le_antisymm (h.alone m) held, h.modes, h.oneHold, h.holdOrWait, h.oneWait, h.ordered, upgrade⟩

namespace Draft

/-- Fewer waiters, and any pending upgrade. -/
theorem sublist {e d : LockEntry} (h : e.Draft) (mode : d.mode = e.mode) (slots : d.slots = e.slots)
    (waiters : d.waiters.Sublist e.waiters) : d.Draft where
  alone m := by rw [mode] at m; simpa only [holds, slots] using h.alone m
  modes i k hk := by rw [slots] at hk; rw [mode]; exact h.modes i k hk
  oneHold i j k l hk hl := by rw [slots] at hk hl; exact h.oneHold i j k l hk hl
  holdOrWait i k hk w hw := by rw [slots] at hk; exact h.holdOrWait i k hk w (waiters.subset hw)
  oneWait := h.oneWait.sublist (waiters.map _)
  ordered := h.ordered.sublist waiters

/-- A slot is emptied. -/
theorem vacate {e : LockEntry} (h : e.Draft) (i : SlotId) : (e.setSlot i none).Draft := by
  have sub : ∀ (j : SlotId) (k : Holder), (e.setSlot i none).slots[j] = some k → e.slots[j] = some k := by
    intro j k hk
    rw [slots_setSlot] at hk
    split at hk
    · cases hk
    · exact hk
  refine ⟨fun m => ?_, fun j k hk => h.modes j k (sub j k hk), fun j l k p hk hp => h.oneHold j l k p (sub j k hk) (sub l p hp),
    fun j k hk => h.holdOrWait j k (sub j k hk), h.oneWait, h.ordered⟩
  rw [holds_le_one_iff]
  exact fun j l k p hk hp => (holds_le_one_iff e).mp (h.alone m) j l k p (sub j k hk) (sub l p hp)

/-- Every hold stays with its client and the entry's mode. -/
theorem relabel {e d : LockEntry} (h : e.Draft) (held : ∀ (i : SlotId) (k : Holder), d.slots[i] = some k →
    k.mode = d.mode ∧ ∃ l, e.slots[i] = some l ∧ l.client = k.client) (alone : d.mode = .exclusive → e.holds ≤ 1)
    (waiters : d.waiters.map (fun w => (w.client, w.priority)) = e.waiters.map (fun w => (w.client, w.priority))) : d.Draft := by
  have hc : d.waiters.map (fun w => w.client) = e.waiters.map (fun w => w.client) := by
    have := congrArg (List.map Prod.fst) waiters
    simpa [List.map_map, Function.comp_def] using this
  have hp : d.waiters.map (fun w => w.priority) = e.waiters.map (fun w => w.priority) := by
    have := congrArg (List.map Prod.snd) waiters
    simpa [List.map_map, Function.comp_def] using this
  refine ⟨fun m => ?_, fun i k hk => (held i k hk).1, fun i j k l hk hl hkl => ?_, fun i k hk w hw => ?_, ?_, ?_⟩
  · rw [holds_le_one_iff]
    intro i j k l hk hl
    obtain ⟨-, a, ha, -⟩ := held i k hk
    obtain ⟨-, b, hb, -⟩ := held j l hl
    exact (holds_le_one_iff e).mp (alone m) i j a b ha hb
  · obtain ⟨-, a, ha, hac⟩ := held i k hk
    obtain ⟨-, b, hb, hbc⟩ := held j l hl
    exact h.oneHold i j a b ha hb (by rw [hac, hbc, hkl])
  · obtain ⟨-, a, ha, hac⟩ := held i k hk
    have : w.client ∈ e.waiters.map (fun w => w.client) := hc ▸ List.mem_map_of_mem hw
    obtain ⟨v, hv, hvw⟩ := List.mem_map.mp this
    rw [← hvw, ← hac]
    exact h.holdOrWait i a ha v hv
  · rw [hc]; exact h.oneWait
  · have := List.pairwise_map.mpr h.ordered
    rw [← hp] at this
    exact List.pairwise_map.mp this

/-- A client that stands nowhere on the entry takes a free slot, in a mode that the entry admits (R5, R6). -/
theorem seat {e : LockEntry} (h : e.Draft) {i : SlotId} {k : Holder} (free : e.slots[i] = none)
    (mode : e.holds = 0 ∨ (k.mode = .shared ∧ e.mode = .shared)) (apart : e.without k.client) :
    { e.setSlot i (some k) with mode := if e.holds = 0 then k.mode else e.mode }.Draft := by
  obtain ⟨noHold, noWait⟩ := apart
  have cases : ∀ (j : SlotId) (l : Holder), (e.setSlot i (some k)).slots[j] = some l → (j = i ∧ l = k) ∨ e.slots[j] = some l := by
    intro j l hl
    rw [slots_setSlot] at hl
    split at hl
    · cases hl; exact .inl ⟨‹_›, rfl⟩
    · exact .inr hl
  have none_of_zero : e.holds = 0 → ∀ (j : SlotId) (l : Holder), e.slots[j] ≠ some l := by
    intro hz j l hl
    rw [(holds_zero_iff e).mp hz j] at hl
    cases hl
  refine ⟨fun m => ?_, fun j l hl => ?_, fun j p l n hl hn hln => ?_, fun j l hl w hw => ?_, h.oneWait, h.ordered⟩
  · by_cases hz : e.holds = 0
    · rw [holds_le_one_iff]
      intro j p l n hl hn
      rcases cases j l hl with ⟨rfl, -⟩ | hl
      · rcases cases p n hn with ⟨rfl, -⟩ | hn
        · rfl
        · exact absurd hn (none_of_zero hz p n)
      · exact absurd hl (none_of_zero hz j l)
    · rcases mode with hz' | ⟨-, hm⟩
      · exact absurd hz' hz
      · simp [hz, hm] at m
  · rcases cases j l hl with ⟨-, rfl⟩ | hl
    · rcases mode with hz | ⟨hk, hm⟩
      · simp [hz]
      · simp [hk, hm]
    · by_cases hz : e.holds = 0
      · exact absurd hl (none_of_zero hz j l)
      · simp only [hz, if_false]; exact h.modes j l hl
  · rcases cases j l hl with ⟨rfl, rfl⟩ | hl'
    · rcases cases p n hn with ⟨rfl, -⟩ | hn
      · rfl
      · exact absurd hln.symm (noHold p n hn)
    · rcases cases p n hn with ⟨-, rfl⟩ | hn
      · exact absurd hln (noHold j l hl')
      · exact h.oneHold j p l n hl' hn hln
  · rcases cases j l hl with ⟨-, rfl⟩ | hl
    · exact noWait w hw
    · exact h.holdOrWait j l hl w hw

end Draft

theorem insertWaiter_perm (x : Waiter) (ws : List Waiter) : (insertWaiter x ws).Perm (x :: ws) := by
  induction ws with
  | nil => exact .refl _
  | cons y ys ih =>
    unfold insertWaiter
    split
    · exact (ih.cons y).trans (.swap x y ys)
    · exact .refl _

theorem insertWaiter_ordered (x : Waiter) (ws : List Waiter) (h : ws.Pairwise (fun a b => a.priority ≤ b.priority)) :
    (insertWaiter x ws).Pairwise (fun a b => a.priority ≤ b.priority) := by
  induction ws with
  | nil => exact List.pairwise_singleton _ _
  | cons y ys ih =>
    obtain ⟨hy, hys⟩ := List.pairwise_cons.mp h
    unfold insertWaiter
    split
    · rename_i hyx
      refine List.pairwise_cons.mpr ⟨fun z hz => ?_, ih hys⟩
      rcases List.mem_cons.mp ((insertWaiter_perm x ys).mem_iff.mp hz) with rfl | hz
      · exact hyx
      · exact hy z hz
    · rename_i hyx
      refine List.pairwise_cons.mpr ⟨fun z hz => ?_, h⟩
      rcases List.mem_cons.mp hz with rfl | hz
      · omega
      · have := hy z hz; omega

/-- A client that stands nowhere on the entry joins its list (R31, R43). -/
theorem Draft.insert {e : LockEntry} (h : e.Draft) {x : Waiter} (apart : e.without x.client) :
    { e.contend with waiters := insertWaiter x e.waiters }.Draft := by
  obtain ⟨noHold, noWait⟩ := apart
  refine ⟨h.alone, h.modes, h.oneHold, fun i k hk w hw => ?_, ?_, insertWaiter_ordered x _ h.ordered⟩
  · rcases List.mem_cons.mp ((insertWaiter_perm x e.waiters).mem_iff.mp hw) with rfl | hw
    · exact (noHold i k hk).symm
    · exact h.holdOrWait i k hk w hw
  · refine ((insertWaiter_perm x e.waiters).map _).nodup_iff.mpr ?_
    refine List.nodup_cons.mpr ⟨fun hm => ?_, h.oneWait⟩
    obtain ⟨w, hw, hwx⟩ := List.mem_map.mp hm
    exact noWait w hw hwx

/-- A new entry before its first hold (R10). -/
theorem fresh_slots (name : Name) (m : Mode) (i : SlotId) : (fresh name m).slots[i] = none := by
  simp [fresh]

theorem fresh_draft (name : Name) (m : Mode) : (fresh name m).Draft where
  alone _ := by rw [(holds_zero_iff _).mpr (fresh_slots name m)]; omega
  modes i h hs := by rw [fresh_slots] at hs; cases hs
  oneHold i j h k hs := by rw [fresh_slots] at hs; cases hs
  holdOrWait i h hs := by rw [fresh_slots] at hs; cases hs
  oneWait := List.nodup_nil
  ordered := List.Pairwise.nil

/-- Every countdown is counted, and nobody moves (R82). -/
theorem slots_visit (e : LockEntry) (i : SlotId) : e.visit.slots[i] = (e.slots[i]).map Holder.visit := by
  simp [visit]

end LockEntry

theorem Holder.visit_frame (h : Holder) : h.visit.client = h.client ∧ h.visit.token = h.token ∧ h.visit.mode = h.mode := by
  unfold Holder.visit; split <;> exact ⟨rfl, rfl, rfl⟩

theorem Waiter.visit_frame (x : Waiter) : x.visit.client = x.client ∧ x.visit.priority = x.priority := by
  unfold Waiter.visit; split
  · exact ⟨rfl, rfl⟩
  · split <;> exact ⟨rfl, rfl⟩

theorem PendingUpgrade.visit_frame (u : PendingUpgrade) : u.visit.client = u.client ∧ u.visit.slot = u.slot := by
  unfold PendingUpgrade.visit; split
  · exact ⟨rfl, rfl⟩
  · split <;> exact ⟨rfl, rfl⟩

namespace LockEntry

theorem Lawful.visit {e : LockEntry} (h : e.Lawful) : e.visit.Lawful := by
  have same : e.visit.holds = e.holds := holds_congr fun i => by rw [slots_visit, Option.isSome_map]
  have draft : e.visit.Draft := by
    refine h.draft.relabel (fun i k hk => ?_) (fun m => (h.alone m).le) ?_
    · rw [slots_visit, Option.map_eq_some_iff] at hk
      obtain ⟨l, hl, rfl⟩ := hk
      exact ⟨(Holder.visit_frame l).2.2.trans (h.modes i l hl), l, hl, (Holder.visit_frame l).1.symm⟩
    · simp [LockEntry.visit, Function.comp_def, (Waiter.visit_frame _).1, (Waiter.visit_frame _).2]
  refine draft.lawful (same ▸ h.held) (fun u hu => ?_)
  obtain ⟨v, hv, rfl⟩ := Option.map_eq_some_iff.mp hu
  obtain ⟨hm, hh, k, hk, hkv⟩ := h.upgrade v hv
  refine ⟨hm, same ▸ hh, k.visit, ?_, ?_⟩
  · rw [slots_visit, (PendingUpgrade.visit_frame v).2, hk]; rfl
  · rw [(Holder.visit_frame k).1, (PendingUpgrade.visit_frame v).1, hkv]

end LockEntry

/-! ## The table as a list of entries -/

/-- The entries of the other names. -/
def State.others (s : State) (name : Name) : List LockEntry := s.table.filter (fun x => x.name != name)

theorem State.name_ne_of_mem_others {s : State} {name : Name} {x : LockEntry} (h : x ∈ s.others name) : x.name ≠ name := by
  simpa using (List.mem_filter.mp h).2

theorem others_perm {es : List LockEntry} {e : LockEntry} (sorted : es.Pairwise (fun a b => a.name < b.name)) (h : e ∈ es) :
    es.Perm (e :: es.filter (fun x => x.name != e.name)) := by
  induction es with
  | nil => cases h
  | cons x xs ih =>
    obtain ⟨hx, hxs⟩ := List.pairwise_cons.mp sorted
    rcases List.mem_cons.mp h with rfl | h
    · have : xs.filter (fun x => x.name != e.name) = xs := by
        rw [List.filter_eq_self]
        intro y hy
        have := hx y hy
        simp only [bne_iff_ne]; bv_omega
      simp [this]
    · have hne : x.name ≠ e.name := by have := hx e h; bv_omega
      rw [List.filter_cons_of_pos (by simpa using hne)]
      exact ((ih hxs h).cons x).trans (.swap _ _ _)

theorem putEntry_perm {es : List LockEntry} (e : LockEntry) (sorted : es.Pairwise (fun a b => a.name < b.name)) :
    (putEntry e es).Perm (e :: es.filter (fun x => x.name != e.name)) := by
  induction es with
  | nil => exact .refl _
  | cons x xs ih =>
    obtain ⟨hx, hxs⟩ := List.pairwise_cons.mp sorted
    unfold putEntry
    split
    · rename_i heq
      have : xs.filter (fun x => x.name != e.name) = xs := by
        rw [List.filter_eq_self]
        intro y hy
        have := hx y hy
        simp only [bne_iff_ne]; bv_omega
      rw [List.filter_cons_of_neg (by simpa using heq), this]
    · rename_i hne
      rw [List.filter_cons_of_pos (by simpa using hne)]
      split
      · rename_i hlt
        have : xs.filter (fun x => x.name != e.name) = xs := by
          rw [List.filter_eq_self]
          intro y hy
          have := hx y hy
          simp only [bne_iff_ne]; bv_omega
        rw [this]
      · exact ((ih hxs).cons x).trans (.swap _ _ _)

theorem putEntry_sorted {es : List LockEntry} (e : LockEntry) (sorted : es.Pairwise (fun a b => a.name < b.name)) :
    (putEntry e es).Pairwise (fun a b => a.name < b.name) := by
  induction es with
  | nil => exact List.pairwise_singleton _ _
  | cons x xs ih =>
    obtain ⟨hx, hxs⟩ := List.pairwise_cons.mp sorted
    unfold putEntry
    split
    · rename_i heq
      exact List.pairwise_cons.mpr ⟨fun y hy => heq ▸ hx y hy, hxs⟩
    · rename_i hne
      split
      · rename_i hlt
        refine List.pairwise_cons.mpr ⟨fun y hy => ?_, sorted⟩
        rcases List.mem_cons.mp hy with rfl | hy
        · exact hlt
        · have := hx y hy; bv_omega
      · rename_i hnl
        refine List.pairwise_cons.mpr ⟨fun y hy => ?_, ih hxs⟩
        rcases List.mem_cons.mp ((putEntry_perm e hxs).mem_iff.mp hy) with rfl | hy
        · bv_omega
        · exact hx y (List.mem_filter.mp hy).1

namespace TableLaw

theorem of_table {s t : State} (h : TableLaw s) (table : t.table = s.table) : TableLaw t :=
  ⟨by rw [table]; exact h.names, by rw [table]; exact h.entries⟩

theorem lawful {s : State} (h : TableLaw s) {name : Name} {e : LockEntry} (he : s.entry? name = some e) : e.Lawful :=
  h.entries e (State.mem_of_lookup he)

/-- The table is the entry of a resident name and the others. -/
theorem perm {s : State} (h : TableLaw s) {name : Name} {e : LockEntry} (he : s.entry? name = some e) :
    s.table.Perm (e :: s.others e.name) :=
  others_perm h.names (State.mem_of_lookup he)

theorem store_perm {s : State} (h : TableLaw s) (e : LockEntry) : (s.storeEntry e).table.Perm (e :: s.others e.name) :=
  putEntry_perm e h.names

theorem storeEntry {s : State} (h : TableLaw s) {e : LockEntry} (he : e.Lawful) : TableLaw (s.storeEntry e) := by
  refine ⟨putEntry_sorted e h.names, fun x hx => ?_⟩
  rcases List.mem_cons.mp ((h.store_perm e).mem_iff.mp hx) with rfl | hx
  · exact he
  · exact h.entries x (List.mem_filter.mp hx).1

theorem removeEntry {s : State} (h : TableLaw s) (name : Name) : TableLaw (s.removeEntry name) :=
  ⟨h.names.filter _, fun x hx => h.entries x (List.mem_filter.mp hx).1⟩

end TableLaw

/-- An absent name leaves every entry among the others. -/
theorem State.others_of_absent {s : State} {name : Name} (h : s.entry? name = none) : s.others name = s.table := by
  unfold State.others
  rw [List.filter_eq_self]
  intro x hx
  have := (List.find?_eq_none.mp h) x hx
  simpa using this

end Sys2Proof.Machine
end

section
/-! PROOFS. Reservations: what is reserved on each completion ring and what it is owed to (R115, R121, R124). -/

namespace Sys2Proof.Machine

/-! ## One ring context -/

namespace RingContext

/-- The writer idles only with nothing to write (R125). -/
def Rested (r : RingContext) : Prop := r.writing = none → r.waiting = []

/-- The slots that are neither occupied nor reserved are not overdrawn (R115). -/
def Roomy (r : RingContext) : Prop := r.occupied + r.reserved ≤ r.place.cqSize

/-- From one context to the other `n` more slots are reserved and as many more records handed on. -/
structure Grown (n : Nat) (a b : RingContext) : Prop where
  fetch : b.fetch = a.fetch
  reserved : b.reserved = a.reserved + n
  handed : b.handed.length = a.handed.length + n
  roomy : a.Roomy → b.Roomy
  rested : a.Rested → b.Rested

theorem Grown.trans {m n : Nat} {a b d : RingContext} (h : Grown m a b) (k : Grown n b d) : Grown (m + n) a d :=
  ⟨k.fetch.trans h.fetch, by rw [k.reserved, h.reserved, Nat.add_assoc], by rw [k.handed, h.handed, Nat.add_assoc],
    k.roomy ∘ h.roomy, k.rested ∘ h.rested⟩

/-- A change of what the reservations do not depend on. -/
theorem Grown.of_eqs {a b : RingContext} (place : b.place = a.place) (occupied : b.occupied = a.occupied)
    (reserved : b.reserved = a.reserved) (fetch : b.fetch = a.fetch) (writing : b.writing = a.writing)
    (waiting : b.waiting = a.waiting) : Grown 0 a b := by
  refine ⟨fetch, reserved, ?_, ?_, ?_⟩
  · simp only [RingContext.handed, writing, waiting]; rfl
  · simp only [Roomy, place, occupied, reserved]; exact id
  · simp only [Rested, writing, waiting]; exact id

theorem accepted_eqs (r : RingContext) (rec : Completion) :
    (r.accepted rec).place = r.place ∧ (r.accepted rec).occupied = r.occupied ∧ (r.accepted rec).reserved = r.reserved ∧
      (r.accepted rec).fetch = r.fetch := by
  rw [accepted_frame]; exact ⟨rfl, rfl, rfl, rfl⟩

/-- A record handed on stands behind those handed on before. -/
theorem accepted_handed (r : RingContext) (rec : Completion) : (r.accepted rec).handed.length = r.handed.length + 1 := by
  unfold accepted handed
  rcases hw : r.writing with _ | w <;> rcases hq : r.waiting with _ | ⟨o, ws⟩ <;> simp

theorem accepted_rested (r : RingContext) (rec : Completion) : (r.accepted rec).Rested := by
  unfold accepted Rested
  rcases hw : r.writing with _ | w <;> rcases hq : r.waiting with _ | ⟨o, ws⟩ <;> simp

theorem claimed_grown (r : RingContext) (n : Notice) (h : 1 ≤ r.free) : Grown 1 r (r.claimed n) := by
  obtain ⟨hp, ho, hr, hf⟩ := accepted_eqs { r with reserved := r.reserved + 1 } (.notice n)
  refine ⟨hf, hr, accepted_handed _ _, fun _ => ?_, fun _ => accepted_rested _ _⟩
  have h' : 1 ≤ r.place.cqSize - r.occupied - r.reserved := h
  unfold Roomy claimed
  rw [hp, ho, hr]
  dsimp only
  omega

theorem foldl_claimed_grown (ns : List Notice) :
    ∀ r : RingContext, ns.length ≤ r.free → Grown ns.length r (ns.foldl claimed r) := by
  induction ns with
  | nil => exact fun r _ => .of_eqs rfl rfl rfl rfl rfl rfl
  | cons n ns ih =>
    intro r h
    rw [List.length_cons] at h
    have k := (claimed_grown r n (by omega)).trans (ih (r.claimed n) (by rw [claimed_free]; omega))
    rw [Nat.add_comm] at k
    exact k

/-- The drain reserves a slot for each notice that it hands on (R126). -/
theorem drained_grown (r : RingContext) : ∃ n, Grown n r r.drained := by
  have fits : (r.notices.take (min r.free r.notices.length)).length ≤ r.free := by
    rw [List.length_take]
    exact (Nat.min_le_left _ _).trans (Nat.min_le_left _ _)
  have g : Grown _ { r with notices := r.notices.drop (min r.free r.notices.length) } r.drained :=
    foldl_claimed_grown (r.notices.take (min r.free r.notices.length)) _ fits
  refine ⟨_, Grown.trans (m := 0) ?_ g⟩
  exact .of_eqs rfl rfl rfl rfl rfl rfl

/-- A notice claims a slot when it is handed on (R126). -/
theorem noticed_grown (c : ClientId) (r : RingContext) (n : Notice) : ∃ m, Grown m r (r.noticed c n) := by
  unfold noticed
  generalize (if c = 0 then 8 else 4) = depth
  split
  · rename_i h; exact ⟨1, claimed_grown r n h.1⟩
  · split <;> exact ⟨0, .of_eqs rfl rfl rfl rfl rfl rfl⟩

end RingContext

/-! ## The answers that the control queue is owed -/

/-- The answers that wait on this client: for the end of its teardown and for its ring swap (R133, R134, R137). -/
def ClientRecord.owed (r : ClientRecord) : Nat :=
  (if r.teardown.any (fun t => t.waiting.isSome) then 1 else 0) +
    match r.swap with
    | none => 0
    | some w => w.waiting.length

theorem State.answersOwed_eq (s : State) : s.answersOwed = (Config.allClients.map (fun c => (s.client c).owed)).sum := rfl

theorem mem_allClients : ∀ c : ClientId, c ∈ Config.allClients := by decide
theorem allClients_nodup : Config.allClients.Nodup := by decide

theorem sum_map_update {α : Type} [DecidableEq α] (l : List α) (f g : α → Nat) (a : α) (nodup : l.Nodup) (mem : a ∈ l)
    (h : ∀ b, b ≠ a → g b = f b) : (l.map g).sum + f a = (l.map f).sum + g a := by
  induction l with
  | nil => cases mem
  | cons b l ih =>
    obtain ⟨hb, hl⟩ := List.nodup_cons.mp nodup
    simp only [List.map_cons, List.sum_cons]
    rcases List.mem_cons.mp mem with rfl | mem
    · have : l.map g = l.map f := List.map_congr_left fun x hx => h x (by rintro rfl; exact hb hx)
      rw [this]; omega
    · have := ih hl mem
      have := h b (by rintro rfl; exact hb mem)
      omega

/-- A client record replaced changes what is owed by what it owes itself. -/
theorem State.answersOwed_setClient (s : State) (c : ClientId) (r : ClientRecord) :
    (s.setClient c r).answersOwed + (s.client c).owed = s.answersOwed + r.owed := by
  have h := sum_map_update Config.allClients (fun d => (s.client d).owed) (fun d => ((s.setClient c r).client d).owed) c
    allClients_nodup (mem_allClients c) (fun d hd => by rw [State.client_setClient_of_ne s c d r hd])
  simpa [State.answersOwed_eq] using h

/-! ## Reservations in the middle of an event -/

/-- The law of the completion rings in the middle of an event of the RUNNING engine: each ring has reserved, beside what
`reservedFor` counts, one slot for each time its client stands in `ds`, where a response is still to be handed on. -/
structure Owing (ds : List ClientId) (s : State) : Prop where
  running : s.engine = .running
  room : ∀ c, (s.ring c).Roomy
  reserved : ∀ c, (s.ring c).reserved = s.reservedFor c + ds.count c
  rested : ∀ c, (s.ring c).Rested
  silent : ∀ c, (s.client c).muted = true → (s.ring c).waiting = []

theorem RingLaw.owing {s : State} (h : RingLaw s) (running : s.engine = .running) : Owing [] s :=
  ⟨running, h.room, h.reserved, h.writer (by rw [running]; decide), h.silent⟩

theorem Owing.ringLaw {s : State} (h : Owing [] s) : RingLaw s :=
  ⟨h.room, h.reserved, fun _ => h.rested, h.silent, fun k => by rw [h.running] at k; cases k⟩

/-- What a ring's reservations are owed to, but for the answers of the control queue. -/
def State.reservedHere (s : State) (c : ClientId) : Nat :=
  (s.ring c).handed.length + (if (s.ring c).fetch = .idle then 0 else 1) + (s.account c).waits

theorem State.reservedFor_eq (s : State) (c : ClientId) :
    s.reservedFor c = s.reservedHere c + if c = 0 then s.answersOwed else 0 := rfl

theorem State.answersOwed_congr {s t : State} (h : ∀ c, t.client c = s.client c) : t.answersOwed = s.answersOwed := by
  simp only [State.answersOwed_eq, h]

namespace Owing

theorem perm {ds es : List ClientId} {s : State} (h : Owing ds s) (p : ds.Perm es) : Owing es s :=
  ⟨h.running, h.room, fun c => by rw [h.reserved, p.count_eq], h.rested, h.silent⟩

/-- A change of what the reservations do not depend on. -/
theorem of_eqs {ds : List ClientId} {s t : State} (h : Owing ds s) (engine : t.engine = s.engine) (rings : t.rings = s.rings)
    (clients : t.clients = s.clients) (waits : ∀ c, (t.account c).waits = (s.account c).waits) : Owing ds t := by
  have hr : ∀ c, t.ring c = s.ring c := fun c => by simp only [State.ring, rings]
  have hc : ∀ c, t.client c = s.client c := fun c => by simp only [State.client, clients]
  refine ⟨engine.trans h.running, fun c => hr c ▸ h.room c, fun c => ?_, fun c => hr c ▸ h.rested c, fun c => ?_⟩
  · rw [hr, h.reserved, State.reservedFor_eq, State.reservedFor_eq, State.answersOwed_congr hc, State.reservedHere,
      State.reservedHere, hr, waits]
  · rw [hr, hc]; exact h.silent c

/-- One ring context changes, and with it what is owed there. -/
theorem setRing {ds es : List ClientId} {s : State} (h : Owing ds s) (c : ClientId) (r : RingContext) (room : r.Roomy)
    (rested : r.Rested) (silent : (s.client c).muted = true → r.waiting = [])
    (others : ∀ d, d ≠ c → es.count d = ds.count d)
    (balance : r.reserved + ((s.ring c).handed.length + (if (s.ring c).fetch = .idle then 0 else 1) + ds.count c) =
      (s.ring c).reserved + (r.handed.length + (if r.fetch = .idle then 0 else 1) + es.count c)) :
    Owing es (s.setRing c r) := by
  refine ⟨h.running, fun d => ?_, fun d => ?_, fun d => ?_, fun d => ?_⟩
  · rw [State.ring_setRing]; split
    · exact room
    · exact h.room d
  · have hd := h.reserved d
    rw [State.reservedFor_eq, State.reservedHere] at hd ⊢
    rw [State.account_setRing, State.answersOwed_congr (t := s.setRing c r) (s := s) (fun d => rfl)]
    by_cases e : d = c
    · subst e
      rw [State.ring_setRing_self]
      omega
    · rw [State.ring_setRing_of_ne _ _ _ _ e, others d e]
      exact hd
  · rw [State.ring_setRing]; split
    · exact rested
    · exact h.rested d
  · rw [State.ring_setRing]; split
    · rename_i e; subst e; exact silent
    · exact h.silent d

theorem withRing {ds es : List ClientId} {s : State} (h : Owing ds s) (c : ClientId) (r : RingContext) (room : r.Roomy)
    (rested : r.Rested) (silent : (s.client c).muted = true → r.waiting = [])
    (others : ∀ d, d ≠ c → es.count d = ds.count d)
    (balance : r.reserved + ((s.ring c).handed.length + (if (s.ring c).fetch = .idle then 0 else 1) + ds.count c) =
      (s.ring c).reserved + (r.handed.length + (if r.fetch = .idle then 0 else 1) + es.count c)) :
    Owing es (s.withRing c r) :=
  (h.setRing c r room rested silent others balance).of_eqs rfl rfl rfl (fun _ => rfl)

/-- A context grows by slots that are reserved for the records they carry. -/
theorem grow {ds : List ClientId} {s : State} (h : Owing ds s) (c : ClientId) {r : RingContext} {n : Nat}
    (g : RingContext.Grown n (s.ring c) r) (unmuted : (s.client c).muted = false) : Owing ds (s.withRing c r) := by
  refine h.withRing c r (g.roomy (h.room c)) (g.rested (h.rested c)) (fun k => ?_) (fun _ _ => rfl) ?_
  · rw [unmuted] at k; cases k
  · rw [g.reserved, g.handed, g.fetch]; omega

theorem notify {ds : List ClientId} {s : State} (h : Owing ds s) (c : ClientId) (n : Notice) : Owing ds (s.notify c n) := by
  rw [State.notify_eq]
  unfold State.noticedTo
  split
  · exact h
  · rename_i k
    obtain ⟨m, g⟩ := RingContext.noticed_grown c (s.ring c) n
    exact h.grow c g (by simpa using (not_or.mp k).1)

theorem drain {ds : List ClientId} {s : State} (h : Owing ds s) (c : ClientId) : Owing ds (s.drain c) := by
  cases k : (s.client c).muted with
  | true => unfold State.drain; rw [if_pos k]; exact h
  | false =>
    rw [State.drain_eq s c k]
    obtain ⟨m, g⟩ := RingContext.drained_grown (s.ring c)
    exact h.grow c g k

theorem count_cons_of_ne {ds : List ClientId} {c d : ClientId} (h : d ≠ c) : (c :: ds).count d = ds.count d :=
  List.count_cons_of_ne (Ne.symm h)

/-- A reservation that is owed to nothing is given back (R124). -/
theorem releaseReservation {ds : List ClientId} {s : State} {c : ClientId} (h : Owing (c :: ds) s) :
    Owing ds (s.releaseReservation c) := by
  have hc := h.reserved c
  rw [List.count_cons_self] at hc
  have hroom : (s.ring c).occupied + (s.ring c).reserved ≤ (s.ring c).place.cqSize := h.room c
  refine drain (h.setRing c { s.ring c with reserved := (s.ring c).reserved - 1 } ?_ (h.rested c) (h.silent c)
    (fun d hd => (count_cons_of_ne hd).symm) ?_) c
  · unfold RingContext.Roomy; dsimp only; omega
  · rw [List.count_cons_self]
    change (s.ring c).reserved - 1 + _ =
      (s.ring c).reserved + ((s.ring c).handed.length + (if (s.ring c).fetch = .idle then 0 else 1) + ds.count c)
    omega

/-- A response fills the reservation that it is owed (R124). -/
theorem respond {ds : List ClientId} {s : State} {c : ClientId} (h : Owing (c :: ds) s) (a : Response) :
    Owing ds (s.respond c a) := by
  cases k : (s.client c).muted with
  | true => unfold State.respond; rw [if_pos k]; exact h.releaseReservation
  | false =>
    rw [State.respond_eq, State.answeredTo, RingContext.answered, k, if_neg (by simp)]
    obtain ⟨hp, ho, hr, hf⟩ := RingContext.accepted_eqs (s.ring c) (.response a)
    refine h.withRing c _ ?_ (RingContext.accepted_rested _ _) (fun m => ?_) (fun d hd => (count_cons_of_ne hd).symm) ?_
    · unfold RingContext.Roomy; rw [hp, ho, hr]; exact h.room c
    · rw [k] at m; cases m
    · rw [hr, hf, RingContext.accepted_handed, List.count_cons_self]; omega

/-- The record in hand is taken: its reservation is owed its response (R121, R123). -/
theorem idleFetch {ds : List ClientId} {s : State} (h : Owing ds s) {c : ClientId} (busy : (s.ring c).fetch ≠ .idle) :
    Owing (c :: ds) (s.idleFetch c) := by
  refine h.setRing c _ (h.room c) (h.rested c) (h.silent c) (fun d hd => count_cons_of_ne hd) ?_
  rw [List.count_cons_self, if_neg busy]
  change (s.ring c).reserved + _ = (s.ring c).reserved + ((s.ring c).handed.length + 0 + _)
  omega

/-- One account changes in its wait count alone. -/
theorem setWaits {ds es : List ClientId} {s : State} (h : Owing ds s) (c : ClientId) (a : Account)
    (others : ∀ d, d ≠ c → es.count d = ds.count d)
    (balance : (s.account c).waits + ds.count c = a.waits + es.count c) : Owing es (s.setAccount c a) := by
  refine ⟨h.running, h.room, fun d => ?_, h.rested, h.silent⟩
  have hd := h.reserved d
  rw [State.reservedFor_eq, State.reservedHere] at hd ⊢
  rw [State.ring_setAccount, State.answersOwed_congr (t := s.setAccount c a) (s := s) (fun d => rfl)]
  by_cases e : d = c
  · subst e
    rw [State.account_setAccount_self]
    omega
  · rw [State.account_setAccount_of_ne _ _ _ _ e, others d e]
    exact hd

/-- A wait that ends is owed its response. -/
theorem subWait {ds : List ClientId} {s : State} (h : Owing ds s) {c : ClientId} (waits : 1 ≤ (s.account c).waits) :
    Owing (c :: ds) (s.subWait c) := by
  refine h.setWaits c _ (fun d hd => count_cons_of_ne hd) ?_
  rw [List.count_cons_self]
  dsimp only
  omega

/-- A record that begins to wait keeps its reservation (R31, R71). -/
theorem addWait {ds : List ClientId} {s : State} {c : ClientId} (h : Owing (c :: ds) s) : Owing ds (s.addWait c) := by
  refine h.setWaits c _ (fun d hd => (count_cons_of_ne hd).symm) ?_
  rw [List.count_cons_self]
  dsimp only
  omega

/-- A client record is replaced: the answers that it owes are the control queue's, and a silent client has no record waiting. -/
theorem setClient {ds es : List ClientId} {s : State} (h : Owing ds s) (c : ClientId) (r : ClientRecord)
    (silent : r.muted = true → (s.ring c).waiting = []) (others : ∀ d, d ≠ 0 → es.count d = ds.count d)
    (balance : (s.client c).owed + ds.count 0 = r.owed + es.count 0) : Owing es (s.setClient c r) := by
  have howed := s.answersOwed_setClient c r
  refine ⟨h.running, h.room, fun d => ?_, h.rested, fun d => ?_⟩
  · have hd := h.reserved d
    rw [State.reservedFor_eq] at hd ⊢
    have hh : (s.setClient c r).reservedHere d = s.reservedHere d := rfl
    rw [State.ring_setClient, hh]
    by_cases e : d = 0
    · subst e
      rw [if_pos rfl] at hd ⊢
      omega
    · rw [if_neg e] at hd ⊢
      rw [others d e]
      exact hd
  · rw [State.client_setClient]; split
    · rename_i e; subst e; exact silent
    · exact h.silent d

/-- The records that wait behind the write in flight are given up, with their reservations (R127). -/
theorem dropWaiting {ds : List ClientId} {s : State} (h : Owing ds s) (c : ClientId) : Owing ds (s.dropWaiting c) := by
  have hc := h.reserved c
  have hroom : (s.ring c).occupied + (s.ring c).reserved ≤ (s.ring c).place.cqSize := h.room c
  have hl : (s.ring c).handed.length = (s.ring c).writing.toList.length + (s.ring c).waiting.length := by
    rw [RingContext.handed, List.length_append]; cases (s.ring c).writing <;> rfl
  rw [State.reservedFor_eq, State.reservedHere] at hc
  refine h.setRing c _ ?_ (fun _ => rfl) (fun _ => rfl) (fun _ _ => rfl) ?_
  · unfold RingContext.Roomy; dsimp only; omega
  · have hn : ({ s.ring c with waiting := [], reserved := (s.ring c).reserved - (s.ring c).waiting.length } :
        RingContext).handed.length = (s.ring c).writing.toList.length := by
      rw [RingContext.handed, List.append_nil]; cases (s.ring c).writing <;> rfl
    rw [hn]
    dsimp only
    omega

end Owing

end Sys2Proof.Machine
end

section
/-! PROOFS. The accounts, entry by entry, and the laws of the clients in the middle of an event. -/

namespace Sys2Proof.Machine

/-! ## What an entry says of a client -/

/-- The entry has a hold of this client with this token. -/
def LockEntry.Carries (e : LockEntry) (c : ClientId) (t : Token) : Prop :=
  ∃ (i : SlotId) (h : Holder), e.slots[i] = some h ∧ h.client = c ∧ h.token = t

/-- The waits of a client on the entry. -/
def LockEntry.waitsOf (e : LockEntry) (c : ClientId) : Nat :=
  (e.waiters.filter (fun w => w.client == c)).length + if e.upgrade.any (fun u => u.client == c) then 1 else 0

namespace LockEntry

theorem carries_of_slots {e d : LockEntry} (h : d.slots = e.slots) (c : ClientId) (t : Token) : d.Carries c t ↔ e.Carries c t := by
  simp only [Carries, h]

/-- Holds that keep client and token are carried as before. -/
theorem carries_congr {e d : LockEntry} (h : ∀ i : SlotId, (d.slots[i]).map (fun k => (k.client, k.token)) =
    (e.slots[i]).map (fun k => (k.client, k.token))) (c : ClientId) (t : Token) : d.Carries c t ↔ e.Carries c t := by
  have carries_iff : ∀ a : LockEntry, a.Carries c t ↔ ∃ i : SlotId, (a.slots[i]).map (fun k => (k.client, k.token)) = some (c, t) := by
    intro a
    simp only [Carries, Option.map_eq_some_iff, Prod.mk.injEq]
  simp only [carries_iff, h]

theorem carries_setSlot_congr {e : LockEntry} {i : SlotId} {h k : Holder} (hs : e.slots[i] = some h) (client : k.client = h.client)
    (token : k.token = h.token) (c : ClientId) (t : Token) : (e.setSlot i (some k)).Carries c t ↔ e.Carries c t := by
  refine carries_congr (fun j => ?_) c t
  rw [slots_setSlot]
  split
  · subst j; rw [hs, Option.map_some, Option.map_some, client, token]
  · rfl

/-- With a client's one hold its token leaves the entry (R4). -/
theorem carries_vacate {e : LockEntry} (oneHold : ∀ (i j : SlotId) (h k : Holder), e.slots[i] = some h → e.slots[j] = some k →
    h.client = k.client → i = j) {i : SlotId} {h : Holder} (hs : e.slots[i] = some h) (c : ClientId) (t : Token) :
    (e.setSlot i none).Carries c t ↔ e.Carries c t ∧ c ≠ h.client := by
  constructor
  · rintro ⟨j, k, hk, rfl, rfl⟩
    rw [slots_setSlot] at hk
    split at hk
    · cases hk
    · rename_i hj
      exact ⟨⟨j, k, hk, rfl, rfl⟩, fun he => hj (oneHold j i k h hk hs he)⟩
  · rintro ⟨⟨j, k, hk, rfl, rfl⟩, hc⟩
    refine ⟨j, k, ?_, rfl, rfl⟩
    rw [slots_setSlot, if_neg]
    · exact hk
    · rintro rfl; rw [hs] at hk; cases hk; exact hc rfl

theorem carries_seat {e : LockEntry} {i : SlotId} (free : e.slots[i] = none) (k : Holder) (c : ClientId) (t : Token) :
    (e.setSlot i (some k)).Carries c t ↔ e.Carries c t ∨ (c = k.client ∧ t = k.token) := by
  constructor
  · rintro ⟨j, l, hl, rfl, rfl⟩
    rw [slots_setSlot] at hl
    split at hl
    · cases hl; exact .inr ⟨rfl, rfl⟩
    · exact .inl ⟨j, l, hl, rfl, rfl⟩
  · rintro (⟨j, l, hl, rfl, rfl⟩ | ⟨rfl, rfl⟩)
    · refine ⟨j, l, ?_, rfl, rfl⟩
      rw [slots_setSlot, if_neg]
      · exact hl
      · rintro rfl; rw [free] at hl; cases hl
    · exact ⟨i, k, slots_setSlot_self e i _, rfl, rfl⟩

theorem waitsOf_congr {e d : LockEntry} (waiters : d.waiters.map (fun w => w.client) = e.waiters.map (fun w => w.client))
    (upgrade : d.upgrade.map (fun u => u.client) = e.upgrade.map (fun u => u.client)) (c : ClientId) : d.waitsOf c = e.waitsOf c := by
  have hw : ∀ a : LockEntry, (a.waiters.filter (fun w => w.client == c)).length = (a.waiters.map (fun w => w.client)).count c := by
    intro a
    rw [List.count_eq_countP, List.countP_map, List.countP_eq_length_filter]
    rfl
  have hu : ∀ a : LockEntry, a.upgrade.any (fun u => u.client == c) = (a.upgrade.map (fun u => u.client)).any (fun d => d == c) := by
    intro a; cases a.upgrade <;> rfl
  simp only [waitsOf, hw, hu, waiters, upgrade]

/-- A waiter that leaves, from wherever it stands. -/
theorem waitsOf_leave {e : LockEntry} {x : Waiter} {ws : List Waiter} (h : e.waiters.Perm (x :: ws)) (c : ClientId) :
    e.waitsOf c = { e with waiters := ws }.waitsOf c + [x.client].count c := by
  simp only [waitsOf, (h.filter _).length_eq, List.filter_cons, List.count_cons, List.count_nil]
  split
  · simp [*]; omega
  · simp [*]

theorem waitsOf_noUpgrade {e : LockEntry} {u : PendingUpgrade} (h : e.upgrade = some u) (c : ClientId) :
    e.waitsOf c = { e with upgrade := none }.waitsOf c + [u.client].count c := by
  simp only [waitsOf, h, Option.any_some, Option.any_none, List.count_cons, List.count_nil]
  simp

theorem waitsOf_empty {e : LockEntry} (waiters : e.waiters = []) (upgrade : e.upgrade = none) (c : ClientId) : e.waitsOf c = 0 := by
  simp [waitsOf, waiters, upgrade]

end LockEntry

/-! ## The accounts against a list of entries -/

/-- Each account is what these entries say: `AccountLaw` with the table as a list of entries. -/
structure Books (es : List LockEntry) (s : State) : Prop where
  waits : ∀ c, (s.account c).waits = (es.map (fun e => e.waitsOf c)).sum
  listed : ∀ c, ∀ i ∈ (s.account c).holds, ∃ e ∈ es, e.name = i.name ∧ e.Carries c i.token
  held : ∀ e ∈ es, ∀ c t, e.Carries c t → { name := e.name, token := t } ∈ (s.account c).holds
  ordered : ∀ c, (s.account c).holds.Pairwise (fun i j => i.token.toNat < j.token.toNat)
  drawn : ∀ c, ∀ i ∈ (s.account c).holds, i.token.toNat < s.nextToken

theorem AccountLaw.books {s : State} (h : AccountLaw s) : Books s.table s :=
  ⟨h.waits, fun c i hi => by
      obtain ⟨e, he, hn, k, l, hl, hc, ht⟩ := h.listed c i hi
      exact ⟨e, he, hn, k, l, hl, hc, ht⟩,
    fun e he c t ⟨k, l, hl, hc, ht⟩ => by subst hc ht; exact h.held e he k l hl, h.ordered, h.drawn⟩

theorem Books.accountLaw {s : State} (h : Books s.table s) : AccountLaw s :=
  ⟨h.waits, fun c i hi => by
      obtain ⟨e, he, hn, k, l, hl, hc, ht⟩ := h.listed c i hi
      exact ⟨e, he, hn, k, l, hl, hc, ht⟩,
    fun e he k l hl => h.held e he _ _ ⟨k, l, hl, rfl, rfl⟩, h.ordered, h.drawn⟩

namespace Books

variable {es : List LockEntry} {e d : LockEntry} {s t : State}

theorem perm {ds : List LockEntry} (h : Books es s) (p : es.Perm ds) : Books ds s :=
  ⟨fun c => (h.waits c).trans (p.map _).sum_nat, fun c i hi => by
      obtain ⟨e, he, k⟩ := h.listed c i hi
      exact ⟨e, p.mem_iff.mp he, k⟩,
    fun e he => h.held e (p.mem_iff.mpr he), h.ordered, h.drawn⟩

/-- A change of what the books do not hold. -/
theorem congr (h : Books es s) (holds : ∀ c, (t.account c).holds = (s.account c).holds)
    (waits : ∀ c, (t.account c).waits = (s.account c).waits) (token : s.nextToken ≤ t.nextToken) : Books es t :=
  ⟨fun c => (waits c).trans (h.waits c), fun c i hi => h.listed c i (holds c ▸ hi), fun e he c x hx => holds c ▸ h.held e he c x hx,
    fun c => holds c ▸ h.ordered c, fun c i hi => (h.drawn c i (holds c ▸ hi)).trans_le token⟩

/-- An entry changes in nothing that the books hold. -/
theorem replace (h : Books (e :: es) s) (name : d.name = e.name) (carries : ∀ c x, d.Carries c x ↔ e.Carries c x)
    (waits : ∀ c, d.waitsOf c = e.waitsOf c) : Books (d :: es) s := by
  refine ⟨fun c => ?_, fun c i hi => ?_, fun a ha c x hx => ?_, h.ordered, h.drawn⟩
  · rw [h.waits, List.map_cons, List.map_cons, waits]
  · obtain ⟨a, ha, hn, hx⟩ := h.listed c i hi
    rcases List.mem_cons.mp ha with rfl | ha
    · exact ⟨d, List.mem_cons_self, name.trans hn, (carries c _).mpr hx⟩
    · exact ⟨a, List.mem_cons_of_mem _ ha, hn, hx⟩
  · rcases List.mem_cons.mp ha with rfl | ha
    · rw [name]; exact h.held e List.mem_cons_self c x ((carries c x).mp hx)
    · exact h.held a (List.mem_cons_of_mem _ ha) c x hx

/-- An entry on which nobody stands is of no account. -/
theorem drop (h : Books (e :: es) s) (carries : ∀ c x, ¬ e.Carries c x) (waits : ∀ c, e.waitsOf c = 0) : Books es s := by
  refine ⟨fun c => ?_, fun c i hi => ?_, fun a ha => h.held a (List.mem_cons_of_mem _ ha), h.ordered, h.drawn⟩
  · rw [h.waits, List.map_cons, List.sum_cons, waits, Nat.zero_add]
  · obtain ⟨a, ha, hn, hx⟩ := h.listed c i hi
    rcases List.mem_cons.mp ha with rfl | ha
    · exact absurd hx (carries c _)
    · exact ⟨a, ha, hn, hx⟩

theorem cons (h : Books es s) (carries : ∀ c x, ¬ e.Carries c x) (waits : ∀ c, e.waitsOf c = 0) : Books (e :: es) s := by
  refine ⟨fun c => ?_, fun c i hi => ?_, fun a ha c x hx => ?_, h.ordered, h.drawn⟩
  · rw [h.waits, List.map_cons, List.sum_cons, waits, Nat.zero_add]
  · obtain ⟨a, ha, k⟩ := h.listed c i hi
    exact ⟨a, List.mem_cons_of_mem _ ha, k⟩
  · rcases List.mem_cons.mp ha with rfl | ha
    · exact absurd hx (carries c x)
    · exact h.held a ha c x hx

/-- The wait count that a listed wait leaves behind. -/
theorem waits_pos (h : Books (e :: es) s) {c : ClientId} (waits : 1 ≤ e.waitsOf c) : 1 ≤ (s.account c).waits := by
  rw [h.waits, List.map_cons, List.sum_cons]; omega

/-- One wait more or less of one client, on the entry and in its account (R44). -/
theorem setWaits (h : Books (e :: es) s) (c : ClientId) (a : Account) (holds : a.holds = (s.account c).holds)
    (name : d.name = e.name) (carries : ∀ b x, d.Carries b x ↔ e.Carries b x) (others : ∀ b, b ≠ c → d.waitsOf b = e.waitsOf b)
    (balance : a.waits + e.waitsOf c = (s.account c).waits + d.waitsOf c) : Books (d :: es) (s.setAccount c a) := by
  have same : ∀ b, ((s.setAccount c a).account b).holds = (s.account b).holds := by
    intro b
    rw [State.account_setAccount]
    split
    · subst b; exact holds
    · rfl
  refine ⟨fun b => ?_, fun b i hi => ?_, fun f hf b x hx => ?_, fun b => same b ▸ h.ordered b, fun b i hi => h.drawn b i (same b ▸ hi)⟩
  · have hb := h.waits b
    rw [List.map_cons, List.sum_cons] at hb ⊢
    rw [State.account_setAccount]
    split
    · subst b; omega
    · rw [others b ‹_›]; exact hb
  · obtain ⟨f, hf, hn, hx⟩ := h.listed b i (same b ▸ hi)
    rcases List.mem_cons.mp hf with rfl | hf
    · exact ⟨d, List.mem_cons_self, name.trans hn, (carries b _).mpr hx⟩
    · exact ⟨f, List.mem_cons_of_mem _ hf, hn, hx⟩
  · rw [same]
    rcases List.mem_cons.mp hf with rfl | hf
    · rw [name]; exact h.held e List.mem_cons_self b x ((carries b x).mp hx)
    · exact h.held f (List.mem_cons_of_mem _ hf) b x hx

theorem subWait (h : Books (e :: es) s) (c : ClientId) (name : d.name = e.name) (carries : ∀ b x, d.Carries b x ↔ e.Carries b x)
    (waits : ∀ b, e.waitsOf b = d.waitsOf b + [c].count b) : Books (d :: es) (s.subWait c) := by
  have hc := waits c
  rw [List.count_singleton_self] at hc
  have hp := h.waits_pos (c := c) (by omega)
  refine h.setWaits c _ rfl name carries (fun b hb => ?_) ?_
  · rw [waits b, List.count_cons_of_ne (Ne.symm hb)]; rfl
  · dsimp only; omega

theorem addWait (h : Books (e :: es) s) (c : ClientId) (name : d.name = e.name) (carries : ∀ b x, d.Carries b x ↔ e.Carries b x)
    (waits : ∀ b, d.waitsOf b = e.waitsOf b + [c].count b) : Books (d :: es) (s.addWait c) := by
  have hc := waits c
  rw [List.count_singleton_self] at hc
  refine h.setWaits c _ rfl name carries (fun b hb => ?_) ?_
  · rw [waits b, List.count_cons_of_ne (Ne.symm hb)]; rfl
  · dsimp only; omega

/-- A hold list has no token twice (R14, R16). -/
theorem token_injective (h : Books es s) {c : ClientId} {i j : HoldItem} (hi : i ∈ (s.account c).holds)
    (hj : j ∈ (s.account c).holds) (token : i.token = j.token) : i = j := by
  have distinct : (s.account c).holds.Pairwise (fun a b => a.token = b.token → a = b) :=
    (h.ordered c).imp fun hab he => by rw [he] at hab; exact absurd hab (lt_irrefl _)
  have symmetric : Std.Symm (fun a b : HoldItem => a.token = b.token → a = b) := ⟨fun a b hab he => (hab he.symm).symm⟩
  exact List.Pairwise.forall_of_forall (fun _ _ _ => rfl) distinct hi hj token

/-- A hold leaves its slot and its client's hold list (R5, R14). -/
theorem removeHold (h : Books (e :: es) s) (names : ∀ a ∈ es, a.name ≠ e.name)
    (oneHold : ∀ (i j : SlotId) (h k : Holder), e.slots[i] = some h → e.slots[j] = some k → h.client = k.client → i = j)
    {i : SlotId} {l : Holder} (hs : e.slots[i] = some l) : Books (e.setSlot i none :: es) (s.dropHold l.client l.token) := by
  have carried := h.held e List.mem_cons_self l.client l.token ⟨i, l, hs, rfl, rfl⟩
  have left : ∀ c, ((s.dropHold l.client l.token).account c).holds =
      if c = l.client then (s.account c).holds.filter (fun k => k.token != l.token) else (s.account c).holds := by
    intro c
    rw [State.dropHold, State.account_setAccount]
    split
    · subst c; rfl
    · rfl
  have sub : ∀ c, ((s.dropHold l.client l.token).account c).holds.Sublist (s.account c).holds := by
    intro c; rw [left]; split
    · exact List.filter_sublist
    · exact .refl _
  refine ⟨fun c => ?_, fun c k hk => ?_, fun a ha c x hx => ?_, fun c => (h.ordered c).sublist (sub c),
    fun c k hk => h.drawn c k ((sub c).subset hk)⟩
  · have hw : ((s.dropHold l.client l.token).account c).waits = (s.account c).waits := by
      rw [State.dropHold, State.account_setAccount]
      split
      · subst c; rfl
      · rfl
    rw [hw, h.waits]; rfl
  · obtain ⟨a, ha, hn, hx⟩ := h.listed c k ((sub c).subset hk)
    rcases List.mem_cons.mp ha with rfl | ha
    · refine ⟨_, List.mem_cons_self, hn, (LockEntry.carries_vacate oneHold hs c _).mpr ⟨hx, ?_⟩⟩
      rintro rfl
      obtain ⟨j, m, hm, hmc, hmt⟩ := hx
      have : j = i := oneHold j i m l hm hs hmc
      subst this
      rw [hs] at hm; cases hm
      rw [left, if_pos rfl] at hk
      have := (List.mem_filter.mp hk).2
      simp [hmt] at this
    · exact ⟨a, List.mem_cons_of_mem _ ha, hn, hx⟩
  · rcases List.mem_cons.mp ha with rfl | ha
    · obtain ⟨hx, hc⟩ := (LockEntry.carries_vacate oneHold hs c x).mp hx
      rw [left, if_neg hc]
      exact h.held e List.mem_cons_self c x hx
    · have hm := h.held a (List.mem_cons_of_mem _ ha) c x hx
      rw [left]
      split
      · rename_i hc
        subst c
        refine List.mem_filter.mpr ⟨hm, ?_⟩
        simp only [bne_iff_ne, ne_eq]
        rintro rfl
        exact names a ha (congrArg HoldItem.name (h.token_injective hm carried rfl))
      · exact hm

/-- A grant draws the next token for a client that takes its hold at the entry (R14, R16). -/
theorem addHold (h : Books (e :: es) s) (c : ClientId) (name : d.name = e.name) (fits : s.nextToken < 2 ^ 64)
    (carries : ∀ b x, d.Carries b x ↔ e.Carries b x ∨ (b = c ∧ x = s.token)) (waits : ∀ b, d.waitsOf b = e.waitsOf b) :
    Books (d :: es) (s.drawToken.appendHold c { name := e.name, token := s.token }) := by
  have number : s.token.toNat = s.nextToken := by rw [State.token, BitVec.toNat_ofNat, Nat.mod_eq_of_lt fits]
  have appended : ∀ b, ((s.drawToken.appendHold c { name := e.name, token := s.token }).account b).holds =
      if b = c then (s.account b).holds ++ [{ name := e.name, token := s.token }] else (s.account b).holds := by
    intro b
    rw [State.appendHold, State.account_setAccount]
    split
    · subst b; rfl
    · rfl
  have mem : ∀ b k, k ∈ ((s.drawToken.appendHold c { name := e.name, token := s.token }).account b).holds ↔
      k ∈ (s.account b).holds ∨ (b = c ∧ k = { name := e.name, token := s.token }) := by
    intro b k
    rw [appended]
    split
    · rw [List.mem_append, List.mem_singleton]; simp [*]
    · simp [*]
  refine ⟨fun b => ?_, fun b k hk => ?_, fun a ha b x hx => ?_, fun b => ?_, fun b k hk => ?_⟩
  · have hw : ((s.drawToken.appendHold c { name := e.name, token := s.token }).account b).waits = (s.account b).waits := by
      rw [State.appendHold, State.account_setAccount]
      split
      · subst b; rfl
      · rfl
    rw [hw, h.waits, List.map_cons, List.map_cons, waits]
  · rcases (mem b k).mp hk with hk | ⟨rfl, rfl⟩
    · obtain ⟨a, ha, hn, hx⟩ := h.listed b k hk
      rcases List.mem_cons.mp ha with rfl | ha
      · exact ⟨d, List.mem_cons_self, name.trans hn, (carries b _).mpr (.inl hx)⟩
      · exact ⟨a, List.mem_cons_of_mem _ ha, hn, hx⟩
    · exact ⟨d, List.mem_cons_self, name, (carries b _).mpr (.inr ⟨rfl, rfl⟩)⟩
  · rw [mem]
    rcases List.mem_cons.mp ha with rfl | ha
    · rw [name]
      rcases (carries b x).mp hx with hx | ⟨rfl, rfl⟩
      · exact .inl (h.held e List.mem_cons_self b x hx)
      · exact .inr ⟨rfl, rfl⟩
    · exact .inl (h.held a (List.mem_cons_of_mem _ ha) b x hx)
  · rw [appended]
    split
    · refine List.pairwise_append.mpr ⟨h.ordered b, List.pairwise_singleton _ _, fun i hi j hj => ?_⟩
      rw [List.mem_singleton.mp hj]
      dsimp only
      rw [number]; exact h.drawn b i hi
    · exact h.ordered b
  · rcases (mem b k).mp hk with hk | ⟨rfl, rfl⟩
    · exact (h.drawn b k hk).trans (Nat.lt_succ_self _)
    · dsimp only; rw [number]; exact Nat.lt_succ_self _

end Books

end Sys2Proof.Machine
end

section
/-! PROOFS. The laws of the clients in the middle of an event, and the operations that an event is made of. -/

namespace Sys2Proof.Machine

/-! ## A client that has no record -/

/-- The client has no record of any kind by its own state (R132, R136). -/
def ClientRecord.dormant (r : ClientRecord) : Prop :=
  r.teardown = none ∧ (r.state ∈ [.unconfigured, .isolated, .recovering, .halted] ∨ r.recoveryPending = true)

theorem IdleLaw.of_dormant {s : State} (h : IdleLaw s) {c : ClientId} (k : (s.client c).dormant) :
    (s.account c).holds = [] ∧ (s.account c).waits = 0 ∧ (∀ w ∈ s.watches, w.owner ≠ c) ∧ (s.ring c).fetch = .idle :=
  h.idle c k.1 k.2

theorem StandingLaw.dormant_of_unconfigured {s : State} (h : StandingLaw s) {c : ClientId}
    (k : (s.client c).state = .unconfigured) : (s.client c).dormant :=
  ⟨h.apart c (by simp [k]), .inl (by simp [k])⟩

/-! ## The laws of the clients in the middle of an event -/

/-- The laws of the clients in the middle of an event of the RUNNING engine: the table is this list of entries, and these clients
are owed a response. -/
structure Sound (es : List LockEntry) (ds : List ClientId) (s : State) : Prop where
  books : Books es s
  quotas : QuotaLaw s
  owing : Owing ds s
  idle : IdleLaw s
  standing : StandingLaw s
  awake : ∀ c ∈ ds, ¬ (s.client c).dormant

theorem ClientLaws.sound {s : State} (h : ClientLaws s) (running : s.engine = .running) : Sound s.table [] s :=
  ⟨h.accounts.books, h.quotas, h.rings.owing running, h.idle, h.standing, fun _ hc => by cases hc⟩

theorem Sound.clientLaws {s : State} (h : Sound s.table [] s) : ClientLaws s :=
  ⟨h.books.accountLaw, h.quotas, h.owing.ringLaw, h.idle, h.standing⟩

namespace Sound

variable {es : List LockEntry} {e d : LockEntry} {ds : List ClientId} {s t : State} {c : ClientId}

/-- A change of what the laws of the clients do not speak of: the table, the capacities, the clock, the events in transit. -/
theorem of_eqs (h : Sound es ds s) (accounts : t.accounts = s.accounts) (token : t.nextToken = s.nextToken) (rings : t.rings = s.rings)
    (engine : t.engine = s.engine) (clients : t.clients = s.clients) (standings : t.standings = s.standings)
    (limits : t.limits = s.limits) (watches : t.watches = s.watches) (queue : t.standingQueue = s.standingQueue) :
    Sound es ds t := by
  have ha : ∀ c, t.account c = s.account c := fun c => by simp only [State.account, accounts]
  have hr : ∀ c, t.ring c = s.ring c := fun c => by simp only [State.ring, rings]
  have hc : ∀ c, t.client c = s.client c := fun c => by simp only [State.client, clients]
  have hs : ∀ c, t.standing c = s.standing c := fun c => by simp only [State.standing, standings]
  refine ⟨h.books.congr (fun c => by rw [ha]) (fun c => by rw [ha]) token.ge, ⟨?_, ?_⟩,
    h.owing.of_eqs engine rings clients (fun c => by rw [ha]), ⟨?_⟩, ?_, ?_⟩
  · simp only [hc, ha]; exact h.quotas.holds
  · simp only [hc, ha]; exact h.quotas.waits
  · simp only [hc, ha, hr, watches]; exact h.idle.idle
  · constructor <;> simp only [hc, hs, limits, queue]
    exacts [h.standing.limits, h.standing.grade, h.standing.top, h.standing.active, h.standing.isolated, h.standing.unconfigured,
      h.standing.apart, h.standing.pending, h.standing.reset, h.standing.charged]
  · simp only [hc]; exact h.awake

theorem perm {fs : List LockEntry} (h : Sound es ds s) (p : es.Perm fs) : Sound fs ds s := { h with books := h.books.perm p }

/-! ### Who has a record is not dormant -/

theorem awake_of_fetch (h : Sound es ds s) (k : (s.ring c).fetch ≠ .idle) : ¬ (s.client c).dormant :=
  fun hd => k (h.idle.of_dormant hd).2.2.2

theorem awake_of_waits (h : Sound es ds s) (k : 1 ≤ (s.account c).waits) : ¬ (s.client c).dormant := by
  intro hd
  have := (h.idle.of_dormant hd).2.1
  omega

theorem awake_of_hold (h : Sound es ds s) {i : HoldItem} (k : i ∈ (s.account c).holds) : ¬ (s.client c).dormant := by
  intro hd
  rw [(h.idle.of_dormant hd).1] at k
  cases k

theorem configured (h : Sound es ds s) (k : ¬ (s.client c).dormant) : (s.client c).state ≠ .unconfigured :=
  fun hu => k (h.standing.dormant_of_unconfigured hu)

/-! ### Operations beside the entry -/

/-- An operation that leaves books and control side alone: what it does to the rings, and what it hands to the Standing Unit. -/
theorem congr {es' : List ClientId} (h : Sound es ds s) (books : SameBooks s t) (control : SameControl s t) (owing : Owing es' t)
    (awake : ∀ c ∈ es', ¬ (s.client c).dormant)
    (fetch : ∀ c, (s.ring c).fetch = .idle → (t.ring c).fetch = .idle)
    (queue : ∀ x ∈ t.standingQueue, x ∈ s.standingQueue ∨ ∀ c n, x = .charge c n → (s.client c).state ≠ .unconfigured) :
    Sound es es' t := by
  have hc := control.client
  have hs := control.standing
  refine ⟨h.books.congr books.holds books.waits control.nextToken, ⟨fun c k => ?_, fun c k => ?_⟩, owing, ⟨fun c k l => ?_⟩, ?_,
    fun c k => by rw [hc]; exact awake c k⟩
  · rw [hc] at k ⊢; rw [books.holds]; exact h.quotas.holds c k
  · rw [hc] at k ⊢; rw [books.waits]; exact h.quotas.waits c k
  · rw [hc] at k l
    obtain ⟨hh, hw, hv, hf⟩ := h.idle.idle c k l
    rw [books.holds, books.waits, books.watches]
    exact ⟨hh, hw, hv, fetch c hf⟩
  · have hl := control.limits
    constructor <;> simp only [hc, hs, hl]
    · exact h.standing.limits
    · exact h.standing.grade
    · exact h.standing.top
    · exact h.standing.active
    · exact h.standing.isolated
    · exact h.standing.unconfigured
    · exact h.standing.apart
    · exact h.standing.pending
    · exact h.standing.reset
    · intro x hx c n e
      rcases queue x hx with hx | hx
      · exact h.standing.charged x hx c n e
      · exact hx c n e

theorem of_ringsOnly {es' : List ClientId} (h : Sound es ds s) (k : s.RingsOnly t) (owing : Owing es' t)
    (awake : ∀ c ∈ es', ¬ (s.client c).dormant) (fetch : ∀ c, (s.ring c).fetch = .idle → (t.ring c).fetch = .idle) : Sound es es' t :=
  h.congr (.of_ringsOnly k) (.of_ringsOnly k) owing awake fetch (fun x hx => .inl (by rw [k] at hx; exact hx))

theorem fetch_withRing {r : RingContext} (h : r.fetch = (s.ring c).fetch) (b : ClientId) :
    ((s.withRing c r).ring b).fetch = (s.ring b).fetch := by
  rw [State.ring_withRing]
  split
  · subst b; exact h
  · rfl

theorem fetch_respond (s : State) (c : ClientId) (a : Response) (b : ClientId) :
    ((s.respond c a).ring b).fetch = (s.ring b).fetch := by
  rw [State.respond_eq]
  refine fetch_withRing ?_ b
  unfold RingContext.answered
  split
  · rfl
  · exact (RingContext.accepted_eqs _ _).2.2.2

theorem fetch_notify (s : State) (c : ClientId) (n : Notice) (b : ClientId) :
    ((s.notify c n).ring b).fetch = (s.ring b).fetch := by
  rw [State.notify_eq]
  unfold State.noticedTo
  split
  · rfl
  · obtain ⟨m, g⟩ := RingContext.noticed_grown c (s.ring c) n
    exact fetch_withRing g.fetch b

theorem fetch_drain (s : State) (c b : ClientId) : ((s.drain c).ring b).fetch = (s.ring b).fetch := by
  cases k : (s.client c).muted with
  | true => unfold State.drain; rw [if_pos k]
  | false =>
    rw [State.drain_eq s c k]
    obtain ⟨m, g⟩ := RingContext.drained_grown (s.ring c)
    exact fetch_withRing g.fetch b

theorem fetch_releaseReservation (s : State) (c b : ClientId) :
    ((s.releaseReservation c).ring b).fetch = (s.ring b).fetch := by
  rw [State.releaseReservation, fetch_drain, State.ring_setRing]
  split
  · subst b; rfl
  · rfl

theorem respond (h : Sound es (c :: ds) s) (a : Response) : Sound es ds (s.respond c a) :=
  h.of_ringsOnly (.respond s c a) (h.owing.respond a) (fun b hb => h.awake b (List.mem_cons_of_mem _ hb)) (fun b hb => (fetch_respond s c a b).trans hb)

theorem answer {k : Taken} (h : Sound es (k.client :: ds) s) (status : Status) : Sound es ds (s.answer k status) := h.respond _

theorem answerWith {k : Taken} (h : Sound es (k.client :: ds) s) (status : Status) (body : Body) :
    Sound es ds (s.answerWith k status body) := h.respond _

theorem notify (h : Sound es ds s) (c : ClientId) (n : Notice) : Sound es ds (s.notify c n) :=
  h.of_ringsOnly (.notify s c n) (h.owing.notify c n) h.awake (fun b hb => (fetch_notify s c n b).trans hb)

theorem releaseReservation (h : Sound es (c :: ds) s) : Sound es ds (s.releaseReservation c) :=
  h.of_ringsOnly (.releaseReservation s c) h.owing.releaseReservation (fun b hb => h.awake b (List.mem_cons_of_mem _ hb))
    (fun b hb => (fetch_releaseReservation s c b).trans hb)

theorem idleFetch (h : Sound es ds s) (busy : (s.ring c).fetch ≠ .idle) : Sound es (c :: ds) (s.idleFetch c) := by
  refine h.of_ringsOnly (.idleFetch s c) (h.owing.idleFetch busy) ?_ (fun b hb => ?_)
  · exact List.forall_mem_cons.mpr ⟨h.awake_of_fetch busy, h.awake⟩
  rw [State.idleFetch, State.ring_setRing]
  split
  · rfl
  · exact hb

/-- An operation that changes nothing that the laws of the clients speak of. -/
theorem of_same (h : Sound es ds s) (books : SameBooks s t) (control : SameControl s t) (rings : t.rings = s.rings)
    (queue : t.standingQueue = s.standingQueue) : Sound es ds t :=
  h.congr books control (h.owing.of_eqs control.engine rings control.clients books.waits) h.awake
    (fun c hc => by simp only [State.ring, rings] at hc ⊢; exact hc) (fun x hx => .inl (queue ▸ hx))

theorem quiet (h : Sound es ds s) : Sound es ds s.quiet :=
  h.of_same (.of_ringsOnly (.quiet s)) (.of_ringsOnly (.quiet s)) rfl rfl

theorem openBatch (h : Sound es ds s) : Sound es ds s.openBatch :=
  h.of_same (.of_eqs rfl rfl rfl rfl rfl rfl) (.of_eqs rfl rfl rfl rfl rfl rfl) rfl rfl

theorem closeBatch (h : Sound es ds s) : Sound es ds s.closeBatch :=
  h.of_same (.of_eqs rfl rfl rfl rfl rfl rfl) (.of_eqs rfl rfl rfl rfl rfl rfl) rfl rfl

theorem emit (h : Sound es ds s) (ev : WatchEvent) : Sound es ds (s.emit ev) :=
  h.of_same (.of_eqs rfl rfl rfl rfl rfl rfl) (.emit s ev) rfl rfl

theorem emitHold (h : Sound es ds s) (k : EventKind) (n : Name) (l : Holder) : Sound es ds (s.emitHold k n l) := h.emit _

theorem loseToken (h : Sound es ds s) (c : ClientId) (x : Token) : Sound es ds (s.loseToken c x) :=
  h.of_same (.setAccount s c _ rfl rfl) (.setAccount s c _) rfl rfl

theorem countRequest (h : Sound es ds s) (c : ClientId) : Sound es ds (s.countRequest c) :=
  h.of_same (.setAccount s c _ rfl rfl) (.setAccount s c _) rfl rfl

theorem handCharge (h : Sound es ds s) (awake : ¬ (s.client c).dormant) (n : Nat) : Sound es ds (s.handCharge c n) := by
  refine h.congr (.handCharge s c n) (.handCharge s c n) (h.owing.of_eqs rfl rfl rfl (fun _ => rfl)) h.awake (fun _ hb => hb) (fun x hx => ?_)
  rcases List.mem_append.mp hx with hx | hx
  · exact .inl hx
  · right
    rintro b m rfl
    cases List.mem_singleton.mp hx
    exact h.configured awake

theorem handCredit (h : Sound es ds s) (c : ClientId) : Sound es ds (s.handCredit c) := by
  refine h.congr (.of_eqs rfl rfl rfl rfl rfl rfl) (.handCredit s c) (h.owing.of_eqs rfl rfl rfl (fun _ => rfl)) h.awake (fun _ hb => hb)
    (fun x hx => ?_)
  rcases List.mem_append.mp hx with hx | hx
  · exact .inl hx
  · right
    rintro b m rfl
    cases List.mem_singleton.mp hx

theorem refuseAtIntake {k : Taken} (h : Sound es [] s) (busy : (s.ring k.client).fetch ≠ .idle) (status : Status) (charge : Nat) :
    Sound es [] (s.refuseAtIntake k status charge) :=
  ((h.idleFetch busy).handCharge (h.awake_of_fetch busy) charge).answer status

/-! ### Operations at an entry -/

theorem replace (h : Sound (e :: es) ds s) (name : d.name = e.name) (carries : ∀ c x, d.Carries c x ↔ e.Carries c x)
    (waits : ∀ c, d.waitsOf c = e.waitsOf c) : Sound (d :: es) ds s := { h with books := h.books.replace name carries waits }

/-- An account changes: what the other laws ask of it. -/
theorem setAccount {fs : List LockEntry} {es' : List ClientId} (h : Sound es ds s) (c : ClientId) (a : Account)
    (books : Books fs (s.setAccount c a)) (owing : Owing es' (s.setAccount c a)) (awake : ∀ b ∈ es', ¬ (s.client b).dormant)
    (holds : a.holds.length ≤ (s.account c).holds.length ∨
      (¬ (s.client c).dormant ∧ a.holds.length ≤ (s.client c).config.holdQuota))
    (waits : a.waits ≤ (s.account c).waits ∨ (¬ (s.client c).dormant ∧ a.waits ≤ (s.client c).config.waitQuota)) :
    Sound fs es' (s.setAccount c a) := by
  refine ⟨books, ⟨fun b k => ?_, fun b k => ?_⟩, owing, ⟨fun b k l => ?_⟩, ?_, awake⟩
  · rw [State.account_setAccount]
    have := h.quotas.holds b k
    split
    · subst b
      rcases holds with hh | ⟨-, hh⟩
      · exact hh.trans this
      · exact hh
    · exact this
  · rw [State.account_setAccount]
    have := h.quotas.waits b k
    split
    · subst b
      rcases waits with hw | ⟨-, hw⟩
      · exact hw.trans this
      · exact hw
    · exact this
  · obtain ⟨hh, hw, hv, hf⟩ := h.idle.idle b k l
    rw [State.account_setAccount]
    split
    · subst b
      refine ⟨?_, ?_, hv, hf⟩
      · rcases holds with hh' | ⟨hh', -⟩
        · rw [hh] at hh'; exact List.eq_nil_of_length_eq_zero (Nat.le_zero.mp hh')
        · exact absurd ⟨k, l⟩ hh'
      · rcases waits with hw' | ⟨hw', -⟩
        · omega
        · exact absurd ⟨k, l⟩ hw'
    · exact ⟨hh, hw, hv, hf⟩
  · exact ⟨h.standing.limits, h.standing.grade, h.standing.top, h.standing.active, h.standing.isolated, h.standing.unconfigured,
      h.standing.apart, h.standing.pending, h.standing.reset, h.standing.charged⟩

theorem removeHold (h : Sound (e :: es) ds s) (names : ∀ a ∈ es, a.name ≠ e.name)
    (oneHold : ∀ (i j : SlotId) (h k : Holder), e.slots[i] = some h → e.slots[j] = some k → h.client = k.client → i = j)
    {i : SlotId} {l : Holder} (hs : e.slots[i] = some l) : Sound (e.setSlot i none :: es) ds (s.dropHold l.client l.token) :=
  h.setAccount l.client _ (h.books.removeHold names oneHold hs) (h.owing.setWaits _ _ (fun _ _ => rfl) rfl)
    h.awake (.inl (List.length_filter_le _ _)) (.inl le_rfl)

theorem subWait (h : Sound (e :: es) ds s) (c : ClientId) (name : d.name = e.name) (carries : ∀ b x, d.Carries b x ↔ e.Carries b x)
    (waits : ∀ b, e.waitsOf b = d.waitsOf b + [c].count b) : Sound (d :: es) (c :: ds) (s.subWait c) := by
  have hc := waits c
  rw [List.count_singleton_self] at hc
  have hp : 1 ≤ (s.account c).waits := h.books.waits_pos (by omega)
  exact h.setAccount c _ (h.books.subWait c name carries waits) (h.owing.subWait hp)
    (List.forall_mem_cons.mpr ⟨h.awake_of_waits hp, h.awake⟩) (.inl le_rfl) (.inl (Nat.sub_le _ _))

theorem addWait (h : Sound (e :: es) (c :: ds) s) (name : d.name = e.name) (carries : ∀ b x, d.Carries b x ↔ e.Carries b x)
    (waits : ∀ b, d.waitsOf b = e.waitsOf b + [c].count b) (room : s.waitRoom c) : Sound (d :: es) ds (s.addWait c) :=
  h.setAccount c _ (h.books.addWait c name carries waits) h.owing.addWait (fun b hb => h.awake b (List.mem_cons_of_mem _ hb))
    (.inl le_rfl) (.inr ⟨h.awake c List.mem_cons_self, room⟩)

theorem addHold (h : Sound (e :: es) ds s) (c : ClientId) (name : d.name = e.name) (fits : s.nextToken < 2 ^ 64)
    (carries : ∀ b x, d.Carries b x ↔ e.Carries b x ∨ (b = c ∧ x = s.token)) (waits : ∀ b, d.waitsOf b = e.waitsOf b)
    (awake : ¬ (s.client c).dormant) (room : s.holdRoom c) :
    Sound (d :: es) ds (s.drawToken.appendHold c { name := e.name, token := s.token }) := by
  have drawn : Sound (e :: es) ds s.drawToken :=
    ⟨h.books.congr (fun _ => rfl) (fun _ => rfl) (Nat.le_succ _), ⟨h.quotas.holds, h.quotas.waits⟩,
      h.owing.of_eqs rfl rfl rfl (fun _ => rfl), ⟨h.idle.idle⟩, ⟨h.standing.limits, h.standing.grade, h.standing.top,
        h.standing.active, h.standing.isolated, h.standing.unconfigured, h.standing.apart, h.standing.pending, h.standing.reset,
        h.standing.charged⟩, h.awake⟩
  refine drawn.setAccount c _ (h.books.addHold c name fits carries waits) (drawn.owing.setWaits _ _ (fun _ _ => rfl) rfl)
    h.awake (.inr ⟨awake, ?_⟩) (.inl le_rfl)
  rw [List.length_append, List.length_singleton]
  exact room

end Sound

end Sys2Proof.Machine
end

section
/-! PROOFS. What an event at a lock entry keeps, operation by operation. -/

namespace Sys2Proof.Machine

/-- The laws that a lock event keeps, between its operations: the table's always, the capacities' from `C`, and the clients' from
`A` while the tokens last, with these clients owed a response. -/
structure Kept (C A : Prop) (ds : List ClientId) (s : State) : Prop where
  table : TableLaw s
  capacity : C → CapacityLaw s
  sound : A → s.nextToken ≤ 2 ^ 64 → Sound s.table ds s

/-- The same in the middle of an event at an entry, where `es` are the other entries. -/
structure Mid (C A : Prop) (es : List LockEntry) (ds : List ClientId) (w : AtEntry) : Prop where
  table : TableLaw w.state
  others : w.state.others w.entry.name = es
  entries : C → w.state.freeEntries + (es.length + 1) = 4096
  waiters : C → w.state.poolFree + (w.entry.waiters.length + (es.map (fun e => e.waiters.length)).sum) = 2048
  sound : A → w.state.nextToken ≤ 2 ^ 64 → Sound (w.entry :: es) ds w.state

/-- The entry as an event leaves it: lawful, or of no one. -/
def LockEntry.Settled (e : LockEntry) : Prop := e.Lawful ∨ (e.holds = 0 ∧ e.waiters = [] ∧ e.upgrade = none)

section
variable {C A : Prop} {es : List LockEntry} {ds fs : List ClientId} {w v : AtEntry} {s t : State} {e : LockEntry}

/-! ## Into an event and out of it -/

theorem Kept.enter (h : Kept C A ds s) {name : Name} (he : s.entry? name = some e) :
    Mid C A (s.others e.name) ds { entry := e, state := s } := by
  have p := h.table.perm he
  refine ⟨h.table, rfl, fun c => ?_, fun c => ?_, fun a ht => (h.sound a ht).perm p⟩
  · have := (h.capacity c).entries
    rw [p.length_eq, List.length_cons] at this
    exact this
  · have := (h.capacity c).waiters
    rw [(p.map _).sum_nat, List.map_cons, List.sum_cons] at this
    exact this

/-- A new entry before its first hold, with a free entry used for it (R10). -/
theorem Kept.enterFresh (h : Kept C A ds s) {name : Name} (he : s.entry? name = none) (m : Mode) (free : s.freeEntries ≠ 0) :
    Mid C A s.table ds { entry := .fresh name m, state := { s with freeEntries := s.freeEntries - 1 } } := by
  refine ⟨h.table.of_table rfl, State.others_of_absent he, fun c => ?_, fun c => ?_, fun a ht => ?_⟩
  · have := (h.capacity c).entries
    dsimp only
    omega
  · have := (h.capacity c).waiters
    change s.poolFree + (0 + _) = 2048
    omega
  · have hs := h.sound a ht
    have hb : Books (LockEntry.fresh name m :: s.table) s := hs.books.cons
      (fun c x ⟨i, l, hl, _⟩ => by rw [LockEntry.fresh_slots] at hl; cases hl) (LockEntry.waitsOf_empty rfl rfl)
    exact Sound.of_eqs { hs with books := hb } rfl rfl rfl rfl rfl rfl rfl rfl rfl

/-- The entry is stored as the event has made it. -/
theorem Mid.store (m : Mid C A es ds w) (lawful : w.entry.Lawful) : Kept C A ds (w.state.storeEntry w.entry) := by
  have p := m.table.store_perm w.entry
  rw [m.others] at p
  refine ⟨m.table.storeEntry lawful, fun c => ⟨?_, ?_⟩, fun a ht => ?_⟩
  · rw [p.length_eq, List.length_cons]; exact m.entries c
  · rw [(p.map _).sum_nat, List.map_cons, List.sum_cons]; exact m.waiters c
  · have h : Sound (w.entry :: es) ds (w.state.storeEntry w.entry) :=
      (m.sound a ht).of_eqs rfl rfl rfl rfl rfl rfl rfl rfl rfl
    exact h.perm p.symm

theorem Mid.close (m : Mid C A es ds w) (settled : w.entry.Settled) : Kept C A ds w.close := by
  unfold AtEntry.close
  rw [LockEntry.holderCount_eq]
  rcases settled with lawful | ⟨gone, noWaiter, noUpgrade⟩
  · rw [if_neg (by have := lawful.held; omega)]
    exact m.store lawful
  · rw [if_pos gone]
    have left : (w.state.removeEntry w.entry.name).table = es := m.others
    refine ⟨m.table.removeEntry _, fun c => ⟨?_, ?_⟩, fun a ht => ?_⟩
    · have := m.entries c
      rw [left]
      change w.state.freeEntries + 1 + _ = 4096
      omega
    · have := m.waiters c
      rw [noWaiter] at this
      rw [left]
      change w.state.poolFree + _ = 2048
      simpa using this
    · rw [left]
      have h := m.sound a ht
      have hb : Books es w.state := h.books.drop
        (fun c x ⟨i, l, hl, _⟩ => by rw [(LockEntry.holds_zero_iff _).mp gone i] at hl; cases hl)
        (LockEntry.waitsOf_empty noWaiter noUpgrade)
      exact Sound.of_eqs { h with books := hb } rfl rfl rfl rfl rfl rfl rfl rfl rfl

/-! ## One operation of an event -/

theorem Mid.step (m : Mid C A es ds w) (name : v.entry.name = w.entry.name) (table : v.state.table = w.state.table)
    (free : v.state.freeEntries = w.state.freeEntries)
    (pool : v.state.poolFree + v.entry.waiters.length = w.state.poolFree + w.entry.waiters.length)
    (token : w.state.nextToken ≤ v.state.nextToken)
    (sound : w.state.nextToken ≤ 2 ^ 64 → v.state.nextToken ≤ 2 ^ 64 → Sound (w.entry :: es) ds w.state →
      Sound (v.entry :: es) fs v.state) : Mid C A es fs v := by
  refine ⟨m.table.of_table table, ?_, fun c => ?_, fun c => ?_, fun a ht => ?_⟩
  · rw [State.others, table, name]; exact m.others
  · rw [free]; exact m.entries c
  · have := m.waiters c; omega
  · exact sound (token.trans ht) ht (m.sound a (token.trans ht))

theorem Mid.names_ne (m : Mid C A es ds w) : ∀ a ∈ es, a.name ≠ w.entry.name := by
  rw [← m.others]; exact fun a => State.name_ne_of_mem_others

/-- The event acts on the rest of the block, beside the books. -/
theorem Mid.onState (m : Mid C A es ds w) {f : State → State} (books : SameBooks w.state (f w.state))
    (sound : Sound (w.entry :: es) ds w.state → Sound (w.entry :: es) fs (f w.state)) : Mid C A es fs (w.onState f) :=
  m.step rfl books.table books.freeEntries (congrArg (· + _) books.poolFree) books.nextToken.ge (fun _ _ => sound)

/-- The event changes nothing in the entry that the books hold. -/
theorem Mid.onEntry (m : Mid C A es ds w) {d : LockEntry} (name : d.name = w.entry.name)
    (carries : ∀ c x, d.Carries c x ↔ w.entry.Carries c x) (waits : ∀ c, d.waitsOf c = w.entry.waitsOf c)
    (waiters : d.waiters.length = w.entry.waiters.length) : Mid C A es ds { w with entry := d } :=
  m.step name rfl rfl (by rw [waiters]) le_rfl (fun _ _ h => h.replace name carries waits)

theorem Mid.removeHold (m : Mid C A es ds w) (draft : w.entry.Draft) {i : SlotId} {h : Holder} (hs : w.entry.slots[i] = some h) :
    Mid C A es ds (w.removeHold i h) :=
  m.step rfl rfl rfl rfl le_rfl (fun _ _ k => k.removeHold m.names_ne draft.oneHold hs)

/-- A waiter leaves the list with a response, from wherever it stands (R33, R42). -/
theorem Mid.answerWaiter (m : Mid C A es ds w) {x y : Waiter} {ws : List Waiter} (hw : w.entry.waiters.Perm (y :: ws))
    (client : x.client = y.client) (a : Response) :
    Mid C A es ds { entry := { w.entry with waiters := ws }, state := (w.state.returnWaiter x).respond x.client a } := by
  have books := SameBooks.respond (w.state.returnWaiter x) x.client a
  refine m.step rfl books.table books.freeEntries ?_ books.nextToken.ge (fun _ _ k => ?_)
  · have hl : w.entry.waiters.length = ws.length + 1 := hw.length_eq
    have hp : ((w.state.returnWaiter x).respond x.client a).poolFree = w.state.poolFree + 1 := books.poolFree
    dsimp only
    omega
  · refine Sound.respond ?_ _
    have returned : Sound (w.entry :: es) ds { w.state with poolFree := w.state.poolFree + 1 } :=
      k.of_eqs rfl rfl rfl rfl rfl rfl rfl rfl rfl
    exact returned.subWait x.client rfl (LockEntry.carries_of_slots rfl) (by rw [client]; exact LockEntry.waitsOf_leave hw)

theorem Mid.endWaiter (m : Mid C A es ds w) {x y : Waiter} {ws : List Waiter} (hw : w.entry.waiters.Perm (y :: ws))
    (client : x.client = y.client) (status : Status) :
    Mid C A es ds { entry := { w.entry with waiters := ws }, state := w.state.endWaiter x status } := m.answerWaiter hw client _

/-- A pending upgrade ends with a response (R72). -/
theorem Mid.endUpgrade (m : Mid C A es ds w) {u v : PendingUpgrade} (hu : w.entry.upgrade = some v) (client : u.client = v.client)
    (status : Status) : Mid C A es ds (w.endUpgrade u status) := by
  have books := SameBooks.respond (w.state.subWait u.client) u.client (u.response status (timeoutBody status u.waited u.report))
  refine m.step rfl books.table books.freeEntries (congrArg (· + _) books.poolFree) books.nextToken.ge (fun _ _ k => ?_)
  refine Sound.respond ?_ _
  exact k.subWait u.client rfl (LockEntry.carries_of_slots rfl) (by rw [client]; exact LockEntry.waitsOf_noUpgrade hu)

/-- A grant fills a free slot for a client that has room (R14, R15, R16). -/
theorem Mid.grantHold (m : Mid C A es ds w) (c : ClientId) (mode : Mode) (lease : Nat) (tag : Tag)
    (awake : Sound (w.entry :: es) ds w.state → ¬ (w.state.client c).dormant) (room : w.state.holdRoom c) :
    Mid C A es ds (w.grantHold c mode lease tag) := by
  unfold AtEntry.grantHold
  split
  · exact m
  · rename_i i hi
    have free : w.entry.slots[i] = none := (LockEntry.lowestFree_of_freeSlot hi).1
    refine m.step rfl rfl rfl rfl (Nat.le_succ _) (fun _ ht k => ?_)
    refine k.addHold c rfl (Nat.lt_of_succ_le ht) (fun b x => ?_) (fun b => rfl) (awake k) room
    exact (LockEntry.carries_of_slots rfl b x).trans (LockEntry.carries_seat free _ b x)

theorem Mid.grantAtOnce (m : Mid C A es ds w) (c : ClientId) (mode : Mode) (lease : Nat) (tag : Tag)
    (awake : Sound (w.entry :: es) ds w.state → ¬ (w.state.client c).dormant) (room : w.state.holdRoom c) :
    Mid C A es ds (w.grantAtOnce c mode lease tag) :=
  (m.grantHold c mode lease tag awake room).onState (.of_eqs rfl rfl rfl rfl rfl rfl) (fun k => k.emit _)

/-- A pending upgrade that is left alone becomes the EXCLUSIVE hold (R46). -/
theorem Mid.convert (m : Mid C A es ds w) {u : PendingUpgrade} (hu : w.entry.upgrade = some u) {h : Holder}
    (hs : w.entry.slots[u.slot] = some h) : Mid C A es ds (w.convert u h) := by
  have books := SameBooks.respond (w.state.subWait u.client) u.client
    (u.response .granted (.granted h.token h.lease u.waited (some u.report) 1))
  refine m.step rfl books.table books.freeEntries (congrArg (· + _) books.poolFree) books.nextToken.ge (fun _ _ k => ?_)
  refine Sound.respond ?_ _
  refine k.subWait u.client rfl (fun b x => ?_) (LockEntry.waitsOf_noUpgrade hu)
  exact (LockEntry.carries_of_slots (e := w.entry.setSlot u.slot (some { h with mode := .exclusive })) rfl b x).trans
    (LockEntry.carries_setSlot_congr (k := { h with mode := .exclusive }) hs rfl rfl b x)

/-! ## The grant pass -/

/-- The event with this waiter list before it. -/
def AtEntry.queue (w : AtEntry) (xs : List Waiter) : AtEntry := w.onEntry (fun e => { e with waiters := xs })

theorem AtEntry.grantHold_eq {i : SlotId} (free : w.entry.lowestFree i) (c : ClientId) (m : Mode) (lease : Nat) (tag : Tag) :
    w.grantHold c m lease tag =
      { entry := { w.entry.setSlot i (some (grantedHold c w.state.nextToken m lease tag)) with
                   mode := if w.entry.holds = 0 then m else w.entry.mode },
        state := w.state.drawToken.appendHold c { name := w.entry.name, token := w.state.token } } := by
  unfold AtEntry.grantHold
  rw [LockEntry.freeSlot_eq free, LockEntry.holderCount_eq]
  rfl

/-- The head of the list stands nowhere else on the entry (R4, R43). -/
theorem LockEntry.Draft.head_apart {x : Waiter} {rest : List Waiter} (draft : { e with waiters := x :: rest }.Draft) :
    { e with waiters := rest }.without x.client := by
  refine ⟨fun i h hs => (draft.holdOrWait i h hs x List.mem_cons_self).symm, fun y hy he => ?_⟩
  exact (List.nodup_cons.mp draft.oneWait).1 (List.mem_map.mpr ⟨y, hy, he⟩)

theorem LockEntry.headGrantable_free {m : Mode} (h : e.headGrantable m = true) : ∃ i, e.lowestFree i := by
  rcases (e.headGrantable_iff m).mp h with hz | ⟨-, -, hi⟩
  · exact exists_lowestFree ((holds_zero_iff e).mp hz 0)
  · exact hi

/-- The pass grants its head waiter (R50). -/
theorem Mid.grantWaiter {x : Waiter} {rest : List Waiter} (m : Mid C A es ds (w.queue (x :: rest)))
    (grantable : w.entry.headGrantable x.mode = true) (room : w.state.holdRoom x.client) :
    Mid C A es ds ((w.grantWaiter x).queue rest) := by
  obtain ⟨i, hi⟩ := LockEntry.headGrantable_free grantable
  have waits : Sound ((w.queue (x :: rest)).entry :: es) ds w.state → 1 ≤ (w.state.account x.client).waits := by
    intro k
    refine k.books.waits_pos ?_
    simp [AtEntry.queue, AtEntry.onEntry, LockEntry.waitsOf]
    omega
  have granted := m.grantHold x.client x.mode x.lease x.tag (fun k => k.awake_of_waits (waits k)) room
  rw [AtEntry.grantHold_eq (w := w.queue (x :: rest)) (i := i) hi] at granted
  have answered := granted.answerWaiter (x := x) (y := x) (ws := rest) (.refl _) rfl
    (x.response .granted (.granted w.state.token x.lease x.waited (some x.report) 1))
  have told := answered.onState (f := fun s => s.emitGranted w.entry.name x.client w.state.token x.mode)
    (.of_eqs rfl rfl rfl rfl rfl rfl) (fun k => k.emit _)
  rw [AtEntry.grantWaiter, AtEntry.grantHold_eq hi]
  exact told

/-- What the pass makes of the entry when it grants its head waiter (R5, R6). -/
theorem LockEntry.Draft.grantWaiter {x : Waiter} {rest : List Waiter} (draft : (w.queue (x :: rest)).entry.Draft)
    (grantable : w.entry.headGrantable x.mode = true) : ((w.grantWaiter x).queue rest).entry.Draft := by
  obtain ⟨i, hi⟩ := LockEntry.headGrantable_free grantable
  have shorter : (w.queue rest).entry.Draft := draft.sublist rfl rfl (List.sublist_cons_self x rest)
  have seated := shorter.seat (i := i) (k := grantedHold x.client w.state.nextToken x.mode x.lease x.tag) hi.1
    (((w.entry.headGrantable_iff x.mode).mp grantable).imp_right (fun h => ⟨h.1, h.2.1⟩)) draft.head_apart
  rw [AtEntry.grantWaiter, AtEntry.grantHold_eq hi]
  exact seated

theorem Mid.passWaiters (xs : List Waiter) : ∀ w : AtEntry, Mid C A es ds (w.queue xs) → (w.queue xs).entry.Draft →
    w.entry.upgrade = none → Mid C A es ds (passWaiters xs w) ∧ (passWaiters xs w).entry.Settled := by
  induction xs with
  | nil =>
    intro w m draft noUpgrade
    refine ⟨m, ?_⟩
    by_cases gone : w.entry.holds = 0
    · exact .inr ⟨gone, rfl, noUpgrade⟩
    · exact .inl (draft.lawful (Nat.one_le_iff_ne_zero.mpr gone) (fun u hu => by
        have : w.entry.upgrade = some u := hu
        rw [noUpgrade] at this; cases this))
  | cons x rest ih =>
    intro w m draft noUpgrade
    have skip : ∀ status, Mid C A es ds (Machine.passWaiters rest (w.onState (fun s => s.endWaiter x status))) ∧
        (Machine.passWaiters rest (w.onState (fun s => s.endWaiter x status))).entry.Settled := fun status =>
      ih (w.onState (fun s => s.endWaiter x status)) (m.endWaiter (x := x) (y := x) (.refl _) rfl status)
        (draft.sublist rfl rfl (List.sublist_cons_self x rest)) noUpgrade
    unfold Machine.passWaiters
    split
    · exact skip _
    · split
      · rename_i grantable
        split
        · exact skip _
        · rename_i quota
          have room : w.state.holdRoom x.client := (w.state.atHoldQuota_iff x.client).mp (by simpa using quota)
          refine ih _ (m.grantWaiter grantable room) (draft.grantWaiter grantable) ?_
          obtain ⟨i, hi⟩ := LockEntry.headGrantable_free grantable
          rw [AtEntry.grantWaiter, AtEntry.grantHold_eq hi]
          exact noUpgrade
      · rename_i blocked
        refine ⟨m, .inl (draft.lawful ?_ (fun u hu => by
          have : w.entry.upgrade = some u := hu
          rw [noUpgrade] at this; cases this))⟩
        refine Nat.one_le_iff_ne_zero.mpr fun gone => blocked ?_
        exact (w.entry.headGrantable_iff x.mode).mpr (.inl gone)

theorem LockEntry.Draft.convert {u : PendingUpgrade} {h : Holder} (draft : w.entry.Draft) (hs : w.entry.slots[u.slot] = some h)
    (alone : w.entry.holds = 1) : (w.convert u h).entry.Lawful := by
  have same : (w.convert u h).entry.holds = w.entry.holds := LockEntry.holds_setSlot_some hs _
  have only := (LockEntry.holds_le_one_iff w.entry).mp alone.le
  have converted : (w.convert u h).entry.Draft := by
    refine draft.relabel (fun i k hk => ?_) (fun _ => alone.le) rfl
    have hk' : (w.entry.setSlot u.slot (some { h with mode := .exclusive })).slots[i] = some k := hk
    rw [LockEntry.slots_setSlot] at hk'
    split at hk'
    · subst i; cases hk'
      exact ⟨rfl, h, hs, rfl⟩
    · rename_i hne
      exact absurd (only i u.slot k h hk' hs) hne
  exact converted.lawful (by rw [same, alone]) (fun v hv => by cases hv)

/-- The grant pass leaves the entry settled (R45 to R51). -/
theorem Mid.grantPass (m : Mid C A es ds w) (draft : w.entry.Draft) (anchored : w.entry.Anchored) :
    Mid C A es ds w.grantPass ∧ w.grantPass.entry.Settled := by
  unfold AtEntry.grantPass
  split
  · rename_i noUpgrade
    exact m.passWaiters _ w draft noUpgrade
  · rename_i u hu
    obtain ⟨mode, h, hs, client⟩ := anchored u hu
    split
    · exact Mid.passWaiters _ (w.endUpgrade u (.cancelled .isolation)) (m.endUpgrade hu rfl _)
        (draft.sublist rfl rfl (.refl _)) rfl
    · rw [hs]
      dsimp only
      split
      · rename_i alone
        rw [LockEntry.holderCount_eq] at alone
        exact ⟨m.convert hu hs, .inl (draft.convert hs alone)⟩
      · rename_i others
        rw [LockEntry.holderCount_eq] at others
        have held : 1 ≤ w.entry.holds := (LockEntry.holds_pos_iff _).mpr ⟨u.slot, h, hs⟩
        refine ⟨m, .inl (draft.lawful held fun v hv => ?_)⟩
        rw [hu] at hv; cases hv
        exact ⟨mode, by omega, h, hs, client⟩

theorem Mid.passAndClose (m : Mid C A es ds w) (draft : w.entry.Draft) (anchored : w.entry.Anchored) :
    Kept C A ds w.passAndClose :=
  (m.grantPass draft anchored).1.close (m.grantPass draft anchored).2

/-! ## Endings -/

/-- A hold is taken away, and with it a pending upgrade of its own (R7): the event then acts on the rest of the block. -/
theorem Mid.takenAway (m : Mid C A es ds w) (lawful : w.entry.Lawful) {i : SlotId} {h : Holder} (hs : w.entry.slots[i] = some h)
    (f : State → State) (status : State → ClientId → Status) (books : ∀ s, SameBooks s (f s))
    (sound : ∀ es s, ¬ (s.client h.client).dormant → Sound es ds s → Sound es fs (f s)) :
    Kept C A fs (((w.removeHold i h).onState f).endUpgradeOfSlot i status).passAndClose := by
  have carried : w.entry.Carries h.client h.token := ⟨i, h, hs, rfl, rfl⟩
  have draft : (w.removeHold i h).entry.Draft := lawful.draft.vacate i
  have acted : Mid C A es fs ((w.removeHold i h).onState f) := by
    refine m.step rfl (books _).table (books _).freeEntries (congrArg (· + _) (books _).poolFree)
      (books (w.removeHold i h).state).nextToken.ge (fun _ _ k => sound _ _ ?_ (k.removeHold m.names_ne lawful.draft.oneHold hs))
    exact k.awake_of_hold (k.books.held w.entry List.mem_cons_self _ _ carried)
  unfold AtEntry.endUpgradeOfSlot
  split
  · rename_i u hu
    split
    · exact (acted.endUpgrade hu rfl _).passAndClose (draft.sublist rfl rfl (.refl _)) (fun v hv => by cases hv)
    · rename_i apart
      refine acted.passAndClose draft fun v hv => ?_
      obtain ⟨mode, -, k, hk, client⟩ := lawful.upgrade v hv
      have : u = v := Option.some.inj (hu.symm.trans hv)
      subst this
      refine ⟨mode, k, ?_, client⟩
      change (w.entry.setSlot i none).slots[u.slot] = some k
      rw [LockEntry.slots_setSlot, if_neg apart]
      exact hk
  · rename_i noUpgrade
    refine acted.passAndClose draft fun v hv => ?_
    have : ((w.removeHold i h).onState f).entry.upgrade = some v := hv
    rw [noUpgrade] at this; cases this

theorem LockEntry.waitersOf_perm {ws : List Waiter} {c : ClientId} {y : Waiter} (hy : y ∈ ws) (client : y.client = c)
    (nodup : (ws.map (fun w => w.client)).Nodup) : ws.Perm (y :: ws.eraseP (fun w => w.client == c)) := by
  induction ws with
  | nil => cases hy
  | cons z zs ih =>
    obtain ⟨hz, hzs⟩ := List.nodup_cons.mp nodup
    rcases List.mem_cons.mp hy with rfl | hy
    · rw [List.eraseP_cons_of_pos (by simpa using client)]
    · have : z.client ≠ c := by rintro rfl; exact hz (List.mem_map.mpr ⟨y, hy, client⟩)
      rw [List.eraseP_cons_of_neg (by simpa using this)]
      exact ((ih hy hzs).cons z).trans (.swap y z _)

/-- A waiter leaves its list with a status, and the pass runs when it was the head (R54, R57, R141). -/
theorem Mid.endWaiterThere (m : Mid C A es ds w) (lawful : w.entry.Lawful) {x y : Waiter} (hy : y ∈ w.entry.waiters)
    (client : x.client = y.client) (status : Status) : Kept C A ds (w.endWaiterThere x status) := by
  have left := m.endWaiter (LockEntry.waitersOf_perm hy client.symm lawful.oneWait) client status
  have draft : (w.entry.dropWaiter x.client).Draft := lawful.draft.sublist rfl rfl List.eraseP_sublist
  unfold AtEntry.endWaiterThere
  dsimp only
  split
  · exact left.passAndClose draft lawful.anchored
  · exact left.close (.inl (draft.lawful lawful.held lawful.upgrade))

/-- A pending upgrade ends with a status, and the pass runs (R54, R73, R141). -/
theorem Mid.endUpgradeThere (m : Mid C A es ds w) (lawful : w.entry.Lawful) {u v : PendingUpgrade} (hu : w.entry.upgrade = some v)
    (client : u.client = v.client) (status : Status) : Kept C A ds (w.endUpgradeThere u status) :=
  (m.endUpgrade hu client status).passAndClose (lawful.draft.sublist rfl rfl (.refl _)) (fun v hv => by cases hv)

end

end Sys2Proof.Machine
end

section
/-! PROOFS. What the lock events keep. -/

namespace Sys2Proof.Machine

/-! ## Finding -/

theorem State.findHold_some {s : State} {c : ClientId} {name : Name} {t : Token} {f : FoundHold}
    (h : s.findHold c name t = some f) :
    s.entry? name = some f.entry ∧ f.entry.slots[f.slot] = some f.hold ∧ f.hold.client = c ∧ f.hold.token = t := by
  unfold findHold at h
  split at h
  · rename_i e he
    split at h
    · rename_i p hp
      cases h
      have hm := (e.mem_holders p.1 p.2).mp (List.mem_of_find?_eq_some hp)
      have hk := List.find?_some hp
      simp only [Bool.and_eq_true, beq_iff_eq] at hk
      exact ⟨he, hm, hk.2, hk.1⟩
    · cases h
  · cases h

theorem State.findToken_some {s : State} {name : Name} {t : Token} {f : FoundHold} (h : s.findToken name t = some f) :
    s.entry? name = some f.entry ∧ f.entry.slots[f.slot] = some f.hold ∧ f.hold.token = t := by
  unfold findToken at h
  split at h
  · rename_i e he
    split at h
    · rename_i p hp
      cases h
      exact ⟨he, (e.mem_holders p.1 p.2).mp (List.mem_of_find?_eq_some hp), by simpa using List.find?_some hp⟩
    · cases h
  · cases h

theorem LockEntry.waiterTagged_some {e : LockEntry} {c : ClientId} {t : Tag} {x : Waiter} (h : e.waiterTagged? c t = some x) :
    x ∈ e.waiters ∧ x.client = c := by
  have := List.find?_some h
  simp only [Bool.and_eq_true, beq_iff_eq] at this
  exact ⟨List.mem_of_find?_eq_some h, this.1⟩

theorem LockEntry.waiterOf_some {e : LockEntry} {c : ClientId} {x : Waiter} (h : e.waiterOf? c = some x) :
    x ∈ e.waiters ∧ x.client = c :=
  ⟨List.mem_of_find?_eq_some h, by simpa using List.find?_some h⟩

/-! ## An immediate grant -/

/-- A grant on a resident entry that admits it, operation by operation (R27). -/
theorem State.grantName_resident {s : State} {name : Name} {e : LockEntry} {i : SlotId} {m : Mode} (he : s.entry? name = some e)
    (admits : e.admitsAtOnce m) (free : e.lowestFree i) (c : ClientId) (lease : Nat) (tag : Tag) :
    s.grantName c name m lease tag =
      ((s.drawToken.appendHold c { name := name, token := s.token }).emitGranted name c s.token m).storeEntry
        (e.setSlot i (some (grantedHold c s.nextToken m lease tag))) := by
  have hn := State.name_of_lookup he
  have mode : (if e.holds = 0 then m else e.mode) = e.mode := by rw [admits.1, admits.2.1, ite_self]
  unfold State.grantName
  rw [he]
  dsimp only
  rw [AtEntry.grantAtOnce, AtEntry.grantHold_eq (i := i) free]
  simp only [AtEntry.onState, mode, hn]
  rfl

/-- A grant of an absent name makes its entry (R10). -/
theorem State.grantName_absent {s : State} {name : Name} (he : s.entry? name = none) (c : ClientId) (m : Mode) (lease : Nat)
    (tag : Tag) :
    s.grantName c name m lease tag =
      (({ s with freeEntries := s.freeEntries - 1 }.drawToken.appendHold c { name := name, token := s.token }).emitGranted name c
        s.token m).storeEntry (newEntry name (grantedHold c s.nextToken m lease tag)) := by
  have free : (LockEntry.fresh name m).lowestFree 0 := ⟨LockEntry.fresh_slots name m 0, fun j hj => absurd hj (Fin.not_lt_zero j)⟩
  have none : (LockEntry.fresh name m).holds = 0 := (LockEntry.holds_zero_iff _).mpr (LockEntry.fresh_slots name m)
  unfold State.grantName
  rw [he]
  dsimp only
  rw [AtEntry.grantAtOnce, AtEntry.grantHold_eq (i := 0) free, none, if_pos rfl]
  rfl

theorem LockEntry.lawful_of_seated {e : LockEntry} (draft : e.Draft) {i : SlotId} {h : Holder} (hs : e.slots[i] = some h)
    (noUpgrade : e.upgrade = none) : e.Lawful :=
  draft.lawful ((holds_pos_iff e).mpr ⟨i, h, hs⟩) (fun u hu => by rw [noUpgrade] at hu; cases hu)

theorem LockEntry.Lawful.contend {e : LockEntry} (h : e.Lawful) : e.contend.Lawful :=
  ⟨h.held, h.alone, h.modes, h.oneHold, h.holdOrWait, h.oneWait, h.ordered, h.upgrade⟩

section
variable {C A : Prop} {ds fs : List ClientId} {s t : State} {k : Taken}

/-! ## Operations beside an entry -/

theorem Kept.act (h : Kept C A ds s) (books : SameBooks s t) (sound : Sound s.table ds s → Sound s.table fs t) : Kept C A fs t := by
  refine ⟨h.table.of_table books.table, fun c => ⟨?_, ?_⟩, fun a ht => ?_⟩
  · rw [books.freeEntries, books.table]; exact (h.capacity c).entries
  · rw [books.poolFree, books.table]; exact (h.capacity c).waiters
  · rw [books.table]
    exact sound (h.sound a (books.nextToken ▸ ht))

theorem Kept.answerWith (h : Kept C A (k.client :: ds) s) (status : Status) (body : Body) :
    Kept C A ds (s.answerWith k status body) := h.act (.answerWith s k status body) (fun a => a.answerWith status body)

theorem Kept.answer (h : Kept C A (k.client :: ds) s) (status : Status) : Kept C A ds (s.answer k status) := h.answerWith status _

theorem Kept.countRequest (h : Kept C A ds s) (c : ClientId) : Kept C A ds (s.countRequest c) :=
  h.act (.setAccount s c _ rfl rfl) (fun a => a.countRequest c)

theorem Kept.answerLost (h : Kept C A [k.client] s) (x : Token) : Kept C A [] (s.answerLost k x) := by
  unfold State.answerLost
  split
  · exact h.answer _
  · exact Kept.answer (h.act (.handCharge s _ _) (fun a => a.handCharge (a.awake _ List.mem_cons_self) _)) _

theorem Kept.contend (h : Kept C A ds s) {name : Name} {e : LockEntry} (he : s.entry? name = some e) :
    Kept C A ds (s.storeEntry e.contend) :=
  ((h.enter he).onEntry (d := e.contend) rfl (LockEntry.carries_of_slots rfl) (fun _ => rfl) rfl).store (h.table.lawful he).contend

/-! ## ACQUIRE -/

theorem Kept.grantName (h : Kept C A ds s) {c : ClientId} (mem : c ∈ ds) {name : Name} {m : Mode} (room : s.holdRoom c)
    (resident : ∀ e, s.entry? name = some e → e.without c ∧ e.admitsAtOnce m) (absent : s.entry? name = none → s.freeEntries ≠ 0)
    (lease : Nat) (tag : Tag) : Kept C A ds (s.grantName c name m lease tag) := by
  unfold State.grantName
  split
  · rename_i e he
    obtain ⟨apart, admits⟩ := resident e he
    obtain ⟨mode, shared, ⟨i, free⟩, -, noUpgrade⟩ := admits
    have m' := (h.enter he).grantAtOnce c m lease tag (fun a => a.awake c mem) room
    refine m'.store ?_
    have seated := (h.table.lawful he).draft.seat (k := grantedHold c s.nextToken m lease tag) free.1 (.inr ⟨shared, mode⟩) apart
    rw [AtEntry.grantAtOnce, AtEntry.grantHold_eq (i := i) free]
    exact LockEntry.lawful_of_seated seated (LockEntry.slots_setSlot_self e i _) noUpgrade
  · rename_i he
    have free : (LockEntry.fresh name m).lowestFree 0 :=
      ⟨LockEntry.fresh_slots name m 0, fun j hj => absurd hj (Fin.not_lt_zero j)⟩
    have m' := (h.enterFresh he m (absent he)).grantAtOnce c m lease tag (fun a => a.awake c mem) room
    refine m'.store ?_
    have seated := (LockEntry.fresh_draft name m).seat (k := grantedHold c s.nextToken m lease tag) free.1
      (.inl ((LockEntry.holds_zero_iff _).mpr (LockEntry.fresh_slots name m)))
      ⟨fun j l hl => absurd (hl.symm.trans (LockEntry.fresh_slots name m j)) (by simp), fun w hw => by cases hw⟩
    rw [AtEntry.grantAtOnce, AtEntry.grantHold_eq (i := 0) free]
    exact LockEntry.lawful_of_seated seated (LockEntry.slots_setSlot_self _ 0 _) rfl

/-- A waiter that joins a list keeps its reservation, and the pass runs when it stands at the head (R31, R32). -/
theorem Mid.insert {es : List LockEntry} {w : AtEntry} {x : Waiter} (m : Mid C A es (x.client :: ds) w) (lawful : w.entry.Lawful)
    (apart : w.entry.without x.client) (room : w.state.waitRoom x.client) (pool : w.state.poolFree ≠ 0) :
    Kept C A ds (w.insert x).close := by
  have perm := LockEntry.insertWaiter_perm x w.entry.waiters
  have draft := lawful.draft.insert apart
  have inserted : Mid C A es ds { entry := { w.entry.contend with waiters := insertWaiter x w.entry.waiters },
                                  state := { w.state with poolFree := w.state.poolFree - 1 }.addWait x.client } := by
    refine m.step rfl rfl rfl ?_ le_rfl (fun _ _ a => ?_)
    · have := perm.length_eq
      rw [List.length_cons] at this
      change w.state.poolFree - 1 + (insertWaiter x w.entry.waiters).length = _
      omega
    · have a' : Sound (w.entry :: es) (x.client :: ds) { w.state with poolFree := w.state.poolFree - 1 } :=
        a.of_eqs rfl rfl rfl rfl rfl rfl rfl rfl rfl
      refine a'.addWait rfl (LockEntry.carries_of_slots rfl) (fun b => ?_) room
      exact LockEntry.waitsOf_leave (e := { w.entry.contend with waiters := insertWaiter x w.entry.waiters }) perm b
  unfold AtEntry.insert
  extract_lets w1
  split
  · exact (inserted.grantPass draft lawful.anchored).1.close (inserted.grantPass draft lawful.anchored).2
  · exact inserted.close (.inl (draft.lawful lawful.held lawful.upgrade))

theorem Kept.acquireBlocked (h : Kept C A [k.client] s) {f : Decode.AcquireFields} {e : LockEntry} (he : s.entry? f.name = some e)
    (apart : e.without k.client) (lease : Nat) : Kept C A [] (acquireBlocked k f lease e s) := by
  unfold Machine.acquireBlocked
  split
  · exact (h.contend he).answerWith _ _
  · split
    · exact (h.contend he).answer _
    · rename_i quota
      split
      · exact (h.contend he).answer _
      · rename_i pool
        exact Mid.insert (x := newWaiter k f lease _ e) (h.enter he) (h.table.lawful he) apart
          ((s.atWaitQuota_iff k.client).mp (by simpa using quota)) pool

theorem Kept.acquireTaken (h : Kept C A [k.client] s) (f : Decode.AcquireFields) : Kept C A [] (acquireTaken k f s) := by
  have counted := h.countRequest k.client
  unfold Machine.acquireTaken
  extract_lets u lease grant
  split
  · rename_i e he
    split
    · exact counted.answer _
    · rename_i noHold
      split
      · exact counted.answer _
      · rename_i noWait
        have apart : e.without k.client := (e.without_iff k.client).mpr ⟨by simpa using noHold, by simpa using noWait⟩
        split
        · exact counted.answer _
        · rename_i quota
          have room := (u.atHoldQuota_iff k.client).mp (by simpa using quota)
          split
          · rename_i grantable
            refine (counted.grantName List.mem_cons_self room (fun d hd => ?_) (fun hd => ?_) lease k.tag).answerWith _ _
            · have : e = d := Option.some.inj (he.symm.trans hd)
              subst this
              exact ⟨apart, (e.grantableNow_iff f.mode).mp grantable⟩
            · exact absurd (he.symm.trans hd) (by simp)
          · exact counted.acquireBlocked he apart lease
  · rename_i he
    split
    · exact counted.answer _
    · rename_i quota
      have room := (u.atHoldQuota_iff k.client).mp (by simpa using quota)
      split
      · exact counted.answer _
      · rename_i free
        refine (counted.grantName List.mem_cons_self room (fun d hd => ?_) (fun _ => free) lease k.tag).answerWith _ _
        exact absurd (he.symm.trans hd) (by simp)

/-! ## TRY_ACQUIRE_SET -/

theorem repeatsName_iff (ps : List (Name × Mode)) : repeatsName ps = false ↔ (ps.map Prod.fst).Nodup := by
  induction ps with
  | nil => simp [repeatsName]
  | cons p ps ih =>
    rw [repeatsName, Bool.or_eq_false_iff, ih, List.map_cons, List.nodup_cons]
    refine and_congr_left fun _ => ?_
    rw [List.any_eq_false, List.mem_map]
    constructor
    · rintro h ⟨p', hm, he⟩
      exact h p' hm (by simpa using he)
    · intro h p' hm he
      exact h ⟨p', hm, by simpa using he⟩

theorem setConflict_none_iff (s : State) (c : ClientId) (ps : List (Name × Mode)) :
    s.setConflict c ps = none ↔ ∀ n ∈ ps.map Prod.fst, ∀ e, s.entry? n = some e → e.without c := by
  induction ps with
  | nil => simp [State.setConflict]
  | cons p ps ih =>
    rw [List.map_cons, List.forall_mem_cons, ← ih, State.setConflict]
    cases he : s.entry? p.1 with
    | none => simp
    | some e =>
      have := e.without_iff c
      dsimp only
      split
      · simp_all
      · split
        · simp_all
        · simp_all

theorem any_blocks_iff (s : State) (ps : List (Name × Mode)) :
    ps.any s.blocks = false ↔ ∀ p ∈ ps, ∀ e, s.entry? p.1 = some e → e.admitsAtOnce p.2 := by
  rw [List.any_eq_false]
  refine forall₂_congr fun p _ => ?_
  unfold State.blocks
  cases s.entry? p.1 with
  | none => simp
  | some e => simp [LockEntry.grantableNow_iff]

/-- The checks of a set, as its owner makes them and as the claims say them (R37). -/
theorem grantsSet_iff (s : State) (c : ClientId) (ps : List (Name × Mode)) :
    s.grantsSet c ps ↔ repeatsName ps = false ∧ s.setConflict c ps = none ∧
      (s.account c).holds.length + ps.length ≤ (s.client c).config.holdQuota ∧
      (ps.filter s.absent).length ≤ s.freeEntries ∧ ps.any s.blocks = false := by
  rw [repeatsName_iff, setConflict_none_iff, any_blocks_iff]
  exact ⟨fun h => ⟨h.distinct, h.apart, h.quota, h.room, h.admitted⟩, fun ⟨a, b, d, e, f⟩ => ⟨a, b, d, e, f⟩⟩

/-- What a grant leaves of the other names. -/
theorem State.lookup_grantName (s : State) (c : ClientId) {name : Name} (m : Mode) (lease : Nat) (tag : Tag) {other : Name}
    (h : other ≠ name) (admits : ∀ e, s.entry? name = some e → e.admitsAtOnce m) :
    (s.grantName c name m lease tag).entry? other = s.entry? other := by
  cases he : s.entry? name with
  | none =>
    have hne : (newEntry name (grantedHold c s.nextToken m lease tag)).name ≠ other := Ne.symm h
    rw [grantName_absent he, lookup_storeEntry, if_neg hne]
    rfl
  | some e =>
    obtain ⟨i, hi⟩ := (admits e he).2.2.1
    rw [grantName_resident he (admits e he) hi, lookup_storeEntry, LockEntry.name_setSlot, State.name_of_lookup he,
      if_neg (Ne.symm h)]
    rfl

theorem State.account_grantName (s : State) (c : ClientId) {name : Name} (m : Mode) (lease : Nat) (tag : Tag)
    (admits : ∀ e, s.entry? name = some e → e.admitsAtOnce m) :
    (s.grantName c name m lease tag).account c = (s.account c).granted name s.token := by
  cases he : s.entry? name with
  | none =>
    rw [grantName_absent he]
    exact account_setAccount_self _ c _
  | some e =>
    obtain ⟨i, hi⟩ := (admits e he).2.2.1
    rw [grantName_resident he (admits e he) hi]
    exact account_setAccount_self _ c _

theorem State.freeEntries_grantName (s : State) (c : ClientId) {name : Name} (m : Mode) (lease : Nat) (tag : Tag)
    (admits : ∀ e, s.entry? name = some e → e.admitsAtOnce m) :
    (s.grantName c name m lease tag).freeEntries = s.freeEntries - if (s.entry? name).isNone then 1 else 0 := by
  cases he : s.entry? name with
  | none => rw [grantName_absent he]; rfl
  | some e =>
    obtain ⟨i, hi⟩ := (admits e he).2.2.1
    rw [grantName_resident he (admits e he) hi]
    rfl

/-- After the grant of its first name, a set that passes its checks passes them with the rest. -/
theorem State.grantsSet.tail {s : State} {c : ClientId} {p : Name × Mode} {ps : List (Name × Mode)} (h : s.grantsSet c (p :: ps))
    (lease : Nat) (tag : Tag) : (s.grantName c p.1 p.2 lease tag).grantsSet c ps := by
  obtain ⟨hp, hps⟩ := List.nodup_cons.mp h.distinct
  have admits := h.admitted p List.mem_cons_self
  have same : ∀ n ∈ ps.map Prod.fst, (s.grantName c p.1 p.2 lease tag).entry? n = s.entry? n := fun n hn =>
    s.lookup_grantName c p.2 lease tag (fun e => hp (e ▸ hn)) admits
  have client := (SameControl.grantName s c p.1 p.2 lease tag).client c
  refine ⟨hps, fun n hn e he => ?_, ?_, ?_, fun p' hp' e he => ?_⟩
  · rw [same n hn] at he
    exact h.apart n (List.mem_cons_of_mem _ hn) e he
  · have quota := h.quota
    rw [client, s.account_grantName c p.2 lease tag admits]
    rw [List.length_cons] at quota
    simp only [Account.granted, List.length_append, List.length_singleton]
    omega
  · have room := h.room
    rw [s.freeEntries_grantName c p.2 lease tag admits]
    have still : ps.filter (fun p' => ((s.grantName c p.1 p.2 lease tag).entry? p'.1).isNone) =
        ps.filter (fun p' => (s.entry? p'.1).isNone) :=
      List.filter_congr fun p' hp' => by rw [same p'.1 (List.mem_map_of_mem hp')]
    rw [still]
    rw [List.filter_cons] at room
    split at room
    · rename_i absent
      rw [if_pos absent]
      rw [List.length_cons] at room
      omega
    · rename_i resident
      rw [if_neg resident]
      omega
  · rw [same p'.1 (List.mem_map_of_mem hp')] at he
    exact h.admitted p' (List.mem_cons_of_mem _ hp') e he

theorem Kept.grantAll {c : ClientId} (mem : c ∈ ds) (lease : Nat) (tag : Tag) (ps : List (Name × Mode)) :
    ∀ s : State, Kept C A ds s → s.grantsSet c ps → Kept C A ds (s.grantAll c ps lease tag) := by
  induction ps with
  | nil => exact fun s h _ => h
  | cons p ps ih =>
    intro s h g
    refine ih _ (h.grantName mem ?_ (fun e he => ⟨?_, ?_⟩) (fun he => ?_) lease tag) (g.tail lease tag)
    · have := g.quota
      rw [List.length_cons] at this
      unfold State.holdRoom
      omega
    · exact g.apart p.1 (by simp) e he
    · exact g.admitted p List.mem_cons_self e he
    · have := g.room
      rw [List.filter_cons_of_pos (by rw [he]; rfl), List.length_cons] at this
      omega

theorem Kept.contendAll (ps : List (Name × Mode)) : ∀ s : State, Kept C A ds s → Kept C A ds (s.contendAll ps) := by
  induction ps with
  | nil => exact fun s h => h
  | cons p ps ih =>
    intro s h
    refine ih (s.contendAt p.1) ?_
    unfold State.contendAt
    split
    · rename_i e he; exact h.contend he
    · exact h

theorem Kept.setTaken (h : Kept C A [k.client] s) (f : Decode.SetFields) : Kept C A [] (setTaken k f s) := by
  unfold Machine.setTaken
  extract_lets lease
  split
  · exact Kept.answer (h.act (.handCharge s _ _) (fun a => a.handCharge (a.awake _ List.mem_cons_self) _)) _
  · rename_i distinct
    split
    · exact h.answer _
    · rename_i apart
      split
      · exact h.answer _
      · rename_i quota
        split
        · exact h.answer _
        · rename_i room
          split
          · exact (Kept.contendAll _ s h).answerWith _ _
          · rename_i admitted
            refine (Kept.grantAll List.mem_cons_self lease k.tag f.positions s h ?_).answerWith _ _
            exact (grantsSet_iff s k.client f.positions).mpr
              ⟨by simpa using distinct, apart, by omega, by omega, by simpa using admitted⟩

/-! ## RELEASE, RENEW, UPGRADE, DOWNGRADE, FORCE_RELEASE -/

theorem Kept.releaseTaken (h : Kept C A [k.client] s) (f : Decode.HoldFields) : Kept C A [] (releaseTaken k f s) := by
  unfold Machine.releaseTaken
  split
  · rename_i found hf
    obtain ⟨he, hs, -, -⟩ := State.findHold_some hf
    refine (h.enter he).takenAway (h.table.lawful he) hs _ _ (fun u => ?_) (fun es u _ a => ?_)
    · exact ((SameBooks.emitHold u _ _ _).trans (.handCredit _ _)).trans (.answer _ k .ok)
    · exact ((a.emitHold _ _ _).handCredit k.client).answer _
  · exact h.answerLost _

/-- An entry one of whose holds is renewed. -/
theorem LockEntry.Lawful.setSlot {e : LockEntry} (h : e.Lawful) {i : SlotId} {l m : Holder} (hs : e.slots[i] = some l)
    (client : m.client = l.client) (mode : m.mode = l.mode) : (e.setSlot i (some m)).Lawful := by
  have same : (e.setSlot i (some m)).holds = e.holds := holds_setSlot_some hs m
  have draft : (e.setSlot i (some m)).Draft := by
    refine h.draft.relabel (fun j n hn => ?_) (fun x => (h.alone x).le) rfl
    rw [slots_setSlot] at hn
    split at hn
    · subst j; cases hn
      exact ⟨mode.trans (h.modes i l hs), l, hs, client.symm⟩
    · exact ⟨h.modes j n hn, n, hn, rfl⟩
  refine draft.lawful (same ▸ h.held) fun u hu => ?_
  obtain ⟨hm, h2, n, hn, hc⟩ := h.upgrade u hu
  by_cases at_i : u.slot = i
  · have ln : l = n := Option.some.inj (hs.symm.trans (at_i ▸ hn))
    refine ⟨hm, same ▸ h2, m, ?_, by rw [client, ln, hc]⟩
    rw [slots_setSlot, if_pos at_i]
  · refine ⟨hm, same ▸ h2, n, ?_, hc⟩
    rw [slots_setSlot, if_neg at_i]
    exact hn

/-- The only hold of an entry changes its mode, and the entry with it (R6). -/
theorem LockEntry.Lawful.setMode {e : LockEntry} (h : e.Lawful) {i : SlotId} {l : Holder} (hs : e.slots[i] = some l)
    (alone : e.holds = 1) (m : Mode) : { e.setSlot i (some { l with mode := m }) with mode := m }.Lawful := by
  have same : { e.setSlot i (some { l with mode := m }) with mode := m }.holds = e.holds := holds_setSlot_some hs _
  have draft : { e.setSlot i (some { l with mode := m }) with mode := m }.Draft := by
    refine h.draft.relabel (fun j n hn => ?_) (fun _ => alone.le) rfl
    have hn' : (e.setSlot i (some { l with mode := m })).slots[j] = some n := hn
    rw [slots_setSlot] at hn'
    split at hn'
    · subst j; cases hn'
      exact ⟨rfl, l, hs, rfl⟩
    · rename_i hne
      exact absurd ((holds_le_one_iff e).mp alone.le j i n l hn' hs) hne
  refine draft.lawful (same ▸ h.held) fun u hu => ?_
  have := (h.upgrade u hu).2.1
  omega

theorem Kept.renewTaken (h : Kept C A [k.client] s) (f : Decode.RenewFields) : Kept C A [] (renewTaken k f s) := by
  unfold Machine.renewTaken
  split
  · rename_i found hf
    obtain ⟨he, hs, -, -⟩ := State.findHold_some hf
    extract_lets lease
    have carries := LockEntry.carries_setSlot_congr (k := { found.hold with lease := lease, expiryRaised := false }) hs rfl rfl
    have lawful := (h.table.lawful he).setSlot (m := { found.hold with lease := lease, expiryRaised := false }) hs rfl rfl
    exact (((h.enter he).onEntry (d := found.entry.setSlot found.slot (some { found.hold with lease := lease, expiryRaised := false })) rfl carries (fun _ => rfl) rfl).store lawful).answerWith _ _
  · exact h.answerLost _

theorem Kept.upgradeFound {f : FoundHold} (h : Kept C A [k.client] s) {name : Name} (he : s.entry? name = some f.entry)
    (hs : f.entry.slots[f.slot] = some f.hold) (hc : f.hold.client = k.client) (wait : Nat) :
    Kept C A [] (upgradeFound k wait f s) := by
  have lawful := h.table.lawful he
  unfold Machine.upgradeFound
  split
  · exact h.answer _
  · rename_i shared
    have mode : f.entry.mode = .shared := by
      rw [← lawful.modes _ _ hs]
      cases hm : f.hold.mode
      · rfl
      · exact absurd hm shared
    split
    · rename_i alone
      rw [LockEntry.holderCount_eq] at alone
      refine Kept.answerWith (Mid.store ((h.enter he).onEntry (d := { f.entry.setSlot f.slot _ with mode := .exclusive }) rfl
        (fun b x => ?_) (fun _ => rfl) rfl) (lawful.setMode hs alone .exclusive)) _ _
      exact (LockEntry.carries_of_slots (e := f.entry.setSlot f.slot (some { f.hold with mode := .exclusive })) rfl b x).trans
        (LockEntry.carries_setSlot_congr (k := { f.hold with mode := .exclusive }) hs rfl rfl b x)
    · rename_i others
      rw [LockEntry.holderCount_eq] at others
      split
      · exact h.answer _
      · rename_i noUpgrade
        split
        · exact (h.contend he).answerWith _ _
        · split
          · exact (h.contend he).answer _
          · rename_i quota
            have none : f.entry.upgrade = none := by simpa using noUpgrade
            have room := (s.atWaitQuota_iff k.client).mp (by simpa using quota)
            have m : Mid C A (s.others f.entry.name) []
                { entry := { f.entry.contend with upgrade := some (newUpgrade k wait (s.account k.client).requests f) },
                  state := s.addWait k.client } := by
              refine (h.enter he).step rfl rfl rfl rfl le_rfl (fun _ _ a => ?_)
              refine a.addWait rfl (LockEntry.carries_of_slots rfl) (fun b => ?_) room
              have := LockEntry.waitsOf_noUpgrade (e := { f.entry.contend with
                upgrade := some (newUpgrade k wait (s.account k.client).requests f) }) rfl b
              rw [this]
              simp only [LockEntry.waitsOf, none]
              rfl
            refine m.store (LockEntry.Draft.lawful (lawful.draft.sublist rfl rfl (.refl _)) lawful.held fun u hu => ?_)
            cases hu
            have := lawful.held
            exact ⟨mode, by change 2 ≤ f.entry.holds; omega, f.hold, hs, hc⟩

theorem Kept.upgradeTaken (h : Kept C A [k.client] s) (f : Decode.UpgradeFields) : Kept C A [] (upgradeTaken k f s) := by
  have counted := h.countRequest k.client
  unfold Machine.upgradeTaken
  extract_lets u
  split
  · rename_i found hf
    obtain ⟨he, hs, hc, -⟩ := State.findHold_some hf
    exact counted.upgradeFound he hs hc f.wait
  · exact counted.answerLost _

theorem Kept.downgradeTaken (h : Kept C A [k.client] s) (f : Decode.HoldFields) : Kept C A [] (downgradeTaken k f s) := by
  unfold Machine.downgradeTaken
  split
  · rename_i found hf
    obtain ⟨he, hs, -, -⟩ := State.findHold_some hf
    have lawful := h.table.lawful he
    split
    · exact h.answer _
    · rename_i exclusive
      have mode : found.entry.mode = .exclusive := by
        rw [← lawful.modes _ _ hs]
        cases hm : found.hold.mode
        · exact absurd hm exclusive
        · rfl
      have made := lawful.setMode hs (lawful.alone mode) .shared
      have answered := (h.enter he).onState (f := fun t => t.answer k .ok) (.answer s k .ok) (fun a => a.answer .ok)
      refine Mid.passAndClose (answered.onEntry (d := { found.entry.setSlot found.slot _ with mode := .shared }) rfl (fun b x => ?_)
        (fun _ => rfl) rfl) made.draft made.anchored
      exact (LockEntry.carries_of_slots (e := found.entry.setSlot found.slot (some { found.hold with mode := .shared })) rfl b x).trans
        (LockEntry.carries_setSlot_congr (k := { found.hold with mode := .shared }) hs rfl rfl b x)
  · exact h.answerLost _

theorem Mid.revoke {es : List LockEntry} {w : AtEntry} (m : Mid C A es ds w) (lawful : w.entry.Lawful) {i : SlotId} {h : Holder}
    (hs : w.entry.slots[i] = some h) (status : State → ClientId → Status) : Kept C A ds (w.revoke i h status) := by
  refine m.takenAway lawful hs _ status (fun u => ?_) (fun es u _ a => ?_)
  · exact ((SameBooks.loseToken u _ _).trans (.emitHold _ _ _ _)).trans (.notify _ _ _)
  · exact ((a.loseToken _ _).emitHold _ _ _).notify _ _

theorem Kept.forceReleaseTaken (h : Kept C A [k.client] s) (f : Decode.HoldFields) : Kept C A [] (forceReleaseTaken k f s) := by
  unfold Machine.forceReleaseTaken
  split
  · rename_i found hf
    obtain ⟨he, hs, -⟩ := State.findToken_some hf
    exact ((h.enter he).revoke (h.table.lawful he) hs _).answer _
  · exact h.answer _

/-! ## CANCEL and QUERY_LOCK -/

theorem Kept.cancelTaken (h : Kept C A [k.client] s) (x : Tag) : Kept C A [] (cancelTaken k x s) := by
  unfold Machine.cancelTaken
  split
  · rename_i g _
    refine Kept.answer ?_ _
    unfold State.cancelAt
    split
    · exact h
    · rename_i e he
      split
      · split
        · rename_i u hu
          exact (h.enter he).endUpgradeThere (h.table.lawful he) (Option.filter_eq_some_iff.mp hu).1 rfl _
        · exact h
      · split
        · rename_i w hw
          exact (h.enter he).endWaiterThere (h.table.lawful he) (LockEntry.waiterTagged_some hw).1 rfl _
        · exact h
  · exact h.answer _

theorem Kept.queryLockTaken (h : Kept C A [k.client] s) (name : Name) : Kept C A [] (queryLockTaken k name s) := by
  unfold Machine.queryLockTaken
  split
  · exact h.answerWith _ _
  · exact h.answer _

/-! ## Events of the Lease Clock and of teardowns -/

theorem Kept.leaseExpiryAt (h : Kept C A ds s) {name : Name} {x : Token} (he : leaseExpiryAt name x s = some t) : Kept C A ds t := by
  unfold Machine.leaseExpiryAt at he
  split at he
  · cases he
  · rename_i e hn
    split at he
    · cases he
    · rename_i i l hl
      cases he
      have hs := (e.mem_holders i l).mp (List.mem_of_find?_eq_some (Option.filter_eq_some_iff.mp hl).1)
      refine (h.enter hn).takenAway (h.table.lawful hn) hs _ _ (fun u => ?_) (fun es u awake a => ?_)
      · exact (((SameBooks.loseToken u _ _).trans (.emitHold _ _ _ _)).trans (.handCharge _ _ _)).trans (.notify _ _ _)
      · exact (((a.loseToken l.client l.token).emitHold _ _ _).handCharge awake _).notify _ _

theorem Kept.waitExpiryAt (h : Kept C A ds s) {name : Name} {c : ClientId} {x : Tag} (he : waitExpiryAt name c x s = some t) :
    Kept C A ds t := by
  unfold Machine.waitExpiryAt at he
  split at he
  · cases he
  · rename_i e hn
    split at he
    · cases he
    · rename_i w hw
      cases he
      obtain ⟨hm, hc⟩ := LockEntry.waiterTagged_some (Option.filter_eq_some_iff.mp hw).1
      exact (h.enter hn).endWaiterThere (h.table.lawful hn) (x := w.completeWait) hm rfl _

theorem Kept.upgradeWaitExpiryAt (h : Kept C A ds s) {name : Name} {x : Tag} (he : upgradeWaitExpiryAt name x s = some t) :
    Kept C A ds t := by
  unfold Machine.upgradeWaitExpiryAt at he
  split at he
  · cases he
  · rename_i e hn
    split at he
    · cases he
    · rename_i u hu
      cases he
      exact (h.enter hn).endUpgradeThere (h.table.lawful hn) (u := u.completeWait) (Option.filter_eq_some_iff.mp hu).1 rfl _

theorem Kept.removeWaiterStep (h : Kept C A ds s) {c : ClientId} {name : Name} (he : removeWaiterStep c name s = some t) :
    Kept C A ds t := by
  unfold Machine.removeWaiterStep at he
  split at he
  · split at he
    · rename_i e hn
      split at he
      · rename_i w hw
        cases he
        exact (h.enter hn).endWaiterThere (h.table.lawful hn) (LockEntry.waiterOf_some hw).1 rfl _
      · cases he
    · cases he
  · cases he

theorem Kept.removeUpgradeStep (h : Kept C A ds s) {c : ClientId} {name : Name} (he : removeUpgradeStep c name s = some t) :
    Kept C A ds t := by
  unfold Machine.removeUpgradeStep at he
  split at he
  · split at he
    · rename_i e hn
      split at he
      · rename_i u hu
        cases he
        exact (h.enter hn).endUpgradeThere (h.table.lawful hn) (Option.filter_eq_some_iff.mp hu).1 rfl _
      · cases he
    · cases he
  · cases he

/-- In a sound state the table has a hold for every item of a hold list (R14). -/
theorem Sound.find_hold (h : Sound s.table ds s) (table : TableLaw s) {c : ClientId} {i : HoldItem}
    (hi : i ∈ (s.account c).holds) : ∃ e p, s.entry? i.name = some e ∧
      e.holders.find? (fun p => p.2.token == i.token && p.2.client == c) = some p := by
  obtain ⟨e, he, hn, j, l, hl, hc, ht⟩ := h.books.listed c i hi
  have found : s.entry? i.name = some e := by
    cases hx : s.entry? i.name with
    | none =>
      have := List.find?_eq_none.mp hx e he
      simp [hn] at this
    | some d =>
      have p := others_perm table.names (State.mem_of_lookup hx)
      rcases List.mem_cons.mp (p.mem_iff.mp he) with rfl | ho
      · rfl
      · have : e.name ≠ d.name := by simpa using (List.mem_filter.mp ho).2
        exact absurd (hn.trans (State.name_of_lookup hx).symm) this
  have some : (e.holders.find? (fun p => p.2.token == i.token && p.2.client == c)).isSome := by
    rw [List.find?_isSome]
    exact ⟨(j, l), (e.mem_holders j l).mpr hl, by simp [hc, ht]⟩
  obtain ⟨p, hp⟩ := Option.isSome_iff_exists.mp some
  exact ⟨e, p, found, hp⟩

/-- A listed hold that no entry carries is taken out of the list, in a state that no run reaches (log entry 30). -/
theorem Kept.dropLost (h : Kept C A ds s) (c : ClientId) {i : HoldItem} {rest : List HoldItem} (hl : (s.account c).holds = i :: rest)
    (lost : ∀ e p, s.entry? i.name = some e → e.holders.find? (fun p => p.2.token == i.token && p.2.client == c) = some p → False) :
    Kept C A ds (s.dropHold c i.token) := by
  refine ⟨h.table.of_table rfl, fun c => ⟨(h.capacity c).entries, (h.capacity c).waiters⟩, fun a ht => ?_⟩
  obtain ⟨e, p, he, hp⟩ := (h.sound a ht).find_hold h.table (hl ▸ List.mem_cons_self)
  exact (lost e p he hp).elim

theorem Kept.revokeHoldStep (h : Kept C A ds s) {c : ClientId} (he : revokeHoldStep c s = some t) : Kept C A ds t := by
  unfold Machine.revokeHoldStep at he
  split at he
  · split at he
    · cases he
    · rename_i i rest hl
      split at he
      · rename_i e hn
        split at he
        · rename_i p hp
          cases he
          exact (h.enter hn).revoke (h.table.lawful hn) ((e.mem_holders p.1 p.2).mp (List.mem_of_find?_eq_some hp)) _
        · rename_i hp
          cases he
          refine h.dropLost c hl fun d p hd hp' => ?_
          have : e = d := Option.some.inj (hn.symm.trans hd)
          subst this
          rw [hp] at hp'; cases hp'
      · rename_i hn
        cases he
        exact h.dropLost c hl fun d p hd _ => by rw [hn] at hd; cases hd
  · cases he

theorem Kept.visitEntry (h : Kept C A ds s) {name : Name} (he : visitEntry name s = some t) : Kept C A ds t := by
  unfold Machine.visitEntry at he
  split at he
  · rename_i e hn
    split at he
    · cases he
      have visited := Mid.store ((h.enter hn).onEntry (d := e.visit) rfl
        (LockEntry.carries_congr fun i => ?_) (LockEntry.waitsOf_congr ?_ ?_) (List.length_map _)) (h.table.lawful hn).visit
      · exact visited.act (.of_eqs rfl rfl rfl rfl rfl rfl) (fun a => a.of_eqs rfl rfl rfl rfl rfl rfl rfl rfl rfl)
      · rw [LockEntry.slots_visit, Option.map_map]
        cases e.slots[i] with
        | none => rfl
        | some l =>
          simp only [Option.map_some, Function.comp_apply, (Holder.visit_frame l).1, (Holder.visit_frame l).2.1]
      · simp [LockEntry.visit, Function.comp_def, (Waiter.visit_frame _).1]
      · simp [LockEntry.visit, Function.comp_def, (PendingUpgrade.visit_frame _).1]
    · cases he
  · cases he

/-! ## Taking a lock record -/

theorem Kept.takeRecord {α : Type} {q : ClientId} {op : Decode.Opcode} {read : Record → Option α} {names : α → List Name}
    {adjust : Limits → α → α} {owner : Taken → α → State → State} (h : Kept C A [] s)
    (ho : ∀ k f u, Kept C A [k.client] u → Kept C A [] (owner k f u))
    (he : s.takeRecord q op read names adjust owner = some t) : Kept C A [] t := by
  obtain ⟨r, hand, cases⟩ := takeRecord_cases he
  have busy : (s.ring q).fetch ≠ .idle := by rw [hand]; simp
  rcases cases with ⟨status, charge, rfl⟩ | ⟨f, -, -, rfl⟩
  · exact h.act (.refuseAtIntake s _ status charge) (fun a => a.refuseAtIntake (k := s.takenAs q r) busy status charge)
  · exact ho _ _ _ (h.act (.of_ringsOnly (.idleFetch s q)) (fun a => a.idleFetch busy))

end

end Sys2Proof.Machine
end

section
/-! PROOFS. Every command by what it may change of the books, and the laws of the table and of the capacities. -/

namespace Sys2Proof.Machine

/-! ## Lock events -/

theorem nextToken_visitEntry {name : Name} {s t : State} (h : visitEntry name s = some t) : t.nextToken = s.nextToken := by
  unfold visitEntry at h
  split at h
  · split at h <;> cases h
    rfl
  · cases h


/-- What an event at the lock table does: nothing, or its work within the tokens, or the halt of the engine (R17). -/
inductive LockMove (s t : State) : Prop
  | stays (same : t = s)
  | taken (running : s.engine = .running) (control : SameControl s t) (tokens : s.nextToken ≤ 2 ^ 64 → t.nextToken ≤ 2 ^ 64)
      (kept : ∀ C A, Kept C A [] s → Kept C A [] t)
  | halts (running : s.engine = .running) (halted : t = s.quiet.halt .tokenSpace)

namespace LockMove
variable {s t : State} {k : State → Option State}

theorem of_takeLockEvent (control : ∀ {u v}, k u = some v → SameControl u v)
    (kept : ∀ {C A u v}, Kept C A [] u → k u = some v → Kept C A [] v) (h : takeLockEvent s k = .next t) : LockMove s t := by
  refine takeLockEvent_keeps (P := LockMove s) (.stays rfl) (fun u running hu tokens => ?_) (fun r => .halts r rfl) h
  refine .taken running ?_ (fun _ => tokens) fun C A a => ?_
  · have opened : SameControl s s.quiet.openBatch := .of_eqs rfl rfl rfl rfl rfl rfl
    exact opened.trans ((control hu).trans (.of_eqs rfl rfl rfl rfl rfl rfl))
  · have opened : Kept C A [] s.quiet.openBatch :=
      a.act (.of_eqs rfl rfl rfl rfl rfl rfl) (fun x => x.quiet.openBatch)
    exact (kept opened hu).act (.of_eqs rfl rfl rfl rfl rfl rfl) (fun x => x.closeBatch)

/-- A lock event that is the taking of a record. -/
theorem of_record {α : Type} {q : ClientId} {op : Decode.Opcode} {read : Record → Option α}
    {names : α → List Name} {adjust : Limits → α → α} {owner : Taken → α → State → State}
    (control : ∀ k f u, SameControl u (owner k f u))
    (kept : ∀ {C A k u}, Kept C A [k.client] u → ∀ f, Kept C A [] (owner k f u))
    (h : takeLockEvent s (fun u => u.takeRecord q op read names adjust owner) = .next t) : LockMove s t :=
  of_takeLockEvent (fun hu => .takeRecord control hu) (fun a hu => a.takeRecord (fun _ f _ b => kept b f) hu) h

/-- The visit of an entry draws no token. -/
theorem of_visit {name : Name} (h : takeEvent s (visitEntry name) = .next t) : LockMove s t := by
  refine takeEvent_keeps (P := LockMove s) (.stays rfl) (fun u running hu => ?_) h
  refine .taken running ((SameControl.of_ringsOnly (.quiet s)).trans (.visitEntry hu)) (fun tokens => ?_) fun C A a => ?_
  · rw [nextToken_visitEntry hu]; exact tokens
  · exact (a.act (.of_ringsOnly (.quiet s)) (fun x => x.quiet)).visitEntry hu

theorem kept {C A : Prop} (h : LockMove s t) (a : Kept C A [] s) : TableLaw t ∧ (C → CapacityLaw t) := by
  rcases h with rfl | ⟨-, -, -, k⟩ | ⟨-, rfl⟩
  · exact ⟨a.table, a.capacity⟩
  · exact ⟨(k C A a).table, (k C A a).capacity⟩
  · exact ⟨a.table.of_table rfl, fun c => ⟨(a.capacity c).entries, (a.capacity c).waiters⟩⟩

theorem tokenLaw (h : LockMove s t) (a : TokenLaw s) : TokenLaw t := by
  rcases h with rfl | ⟨-, control, tokens, -⟩ | ⟨-, rfl⟩
  · exact a
  · exact ⟨a.low.trans control.nextToken, tokens a.high⟩
  · exact ⟨a.low, a.high⟩

theorem watches (h : LockMove s t) : t.watches = s.watches := by
  rcases h with rfl | ⟨-, control, -, -⟩ | ⟨-, rfl⟩
  · rfl
  · exact control.watches
  · rfl

theorem client (h : LockMove s t) (c : ClientId) : t.client c = s.client c ∧ t.standing c = s.standing c := by
  rcases h with rfl | ⟨-, control, -, -⟩ | ⟨-, rfl⟩
  · exact ⟨rfl, rfl⟩
  · exact ⟨control.client c, control.standing c⟩
  · exact ⟨rfl, rfl⟩

end LockMove

/-! ## The commands, sorted -/

/-- The commands that are taken at the lock table. -/
def isLockEvent : Instr → Bool
  | .acquire _ | .tryAcquireSet _ | .release _ | .renew _ | .upgrade _ | .downgrade _ | .cancel _ | .forceRelease _
  | .queryLock _ | .tickVisitEntry _ | .leaseExpiry _ _ | .waitExpiry _ _ _ | .upgradeWaitExpiry _ _
  | .teardownRemoveWaiter _ _ | .teardownRemoveUpgrade _ _ | .teardownRevokeHold _ => true
  | _ => false

theorem exec_lockEvent {i : Instr} {s t : State} (hi : isLockEvent i = true) (h : exec i s = .next t) : LockMove s t := by
  cases i with
  | acquire q => exact .of_record .acquireTaken .acquireTaken h
  | tryAcquireSet q => exact .of_record .setTaken .setTaken h
  | release q => exact .of_record .releaseTaken .releaseTaken h
  | renew q => exact .of_record .renewTaken .renewTaken h
  | upgrade q => exact .of_record .upgradeTaken .upgradeTaken h
  | downgrade q => exact .of_record .downgradeTaken .downgradeTaken h
  | cancel q => exact .of_record .cancelTaken .cancelTaken h
  | forceRelease q => exact .of_record .forceReleaseTaken .forceReleaseTaken h
  | queryLock q => exact .of_record .queryLockTaken .queryLockTaken h
  | tickVisitEntry name => exact .of_visit h
  | leaseExpiry name x => exact .of_takeLockEvent .leaseExpiryAt (fun a => a.leaseExpiryAt) h
  | waitExpiry name c x => exact .of_takeLockEvent .waitExpiryAt (fun a => a.waitExpiryAt) h
  | upgradeWaitExpiry name x => exact .of_takeLockEvent .upgradeWaitExpiryAt (fun a => a.upgradeWaitExpiryAt) h
  | teardownRemoveWaiter c name => exact .of_takeLockEvent .removeWaiterStep (fun a => a.removeWaiterStep) h
  | teardownRemoveUpgrade c name => exact .of_takeLockEvent .removeUpgradeStep (fun a => a.removeUpgradeStep) h
  | teardownRevokeHold c => exact .of_takeLockEvent .revokeHoldStep (fun a => a.revokeHoldStep) h
  | _ => cases hi

/-- The block as a reset leaves it, with these commands pending, this epoch, these control ring registers and this capture
(R151, R152). -/
def State.afresh (pending : List Instr) (epoch : Epoch) (regs : Registers) (capture : Capture) : State :=
  { State.resetWith regs capture with pending := pending, epoch := epoch }

theorem softReset_eq (s : State) : softReset s = .afresh s.pending (s.epoch + 1) s.regs s.capture := rfl

/-! ### The watch table -/

theorem WatchLaw.of_watches {s t : State} (h : WatchLaw s) (k : t.watches = s.watches) : WatchLaw t := by
  refine ⟨?_, ?_, ?_⟩ <;> rw [k]
  exacts [h.entries, h.owned, h.tags]

theorem WatchLaw.sublist {s t : State} (h : WatchLaw s) (k : t.watches.Sublist s.watches) : WatchLaw t :=
  ⟨k.length_le.trans h.entries, fun c => (k.filter _).length_le.trans (h.owned c), h.tags.sublist k⟩

/-- A watch is placed under the limits and with a tag of its own (R88, R91). -/
theorem WatchLaw.place {s t : State} (h : WatchLaw s) {w : Watch} (k : t.watches = s.watches ++ [w])
    (tag : s.ownsWatch w.owner w.tag = false) (owned : s.watchCount w.owner < 8) (entries : s.watches.length < 64) :
    WatchLaw t := by
  refine ⟨?_, fun c => ?_, ?_⟩ <;> rw [k]
  · rw [List.length_append]; exact entries
  · rw [List.filter_append, List.length_append]
    have hc := h.owned c
    by_cases e : w.owner = c
    · subst e
      have : (s.watches.filter (fun x => x.owner == w.owner)).length < 8 := owned
      have : ([w].filter (fun x => x.owner == w.owner)).length ≤ 1 := List.length_filter_le _ _
      omega
    · rw [List.filter_cons_of_neg (by simpa using e)]
      exact hc
  · refine List.pairwise_append.mpr ⟨h.tags, List.pairwise_singleton _ _, fun a ha b hb ⟨ho, ht⟩ => ?_⟩
    rw [List.mem_singleton] at hb
    subst b
    have : s.ownsWatch w.owner w.tag = true := List.any_eq_true.mpr ⟨a, ha, by simp [ho, ht]⟩
    rw [tag] at this; cases this

/-- The books stand as they stood but for the watches, which keep their law. -/
def WatchMove (s t : State) : Prop :=
  ∃ ws, (WatchLaw s → WatchLaw { s with watches := ws }) ∧ SameBooks { s with watches := ws } t

theorem WatchMove.of_books {s t : State} (h : SameBooks s t) : WatchMove s t := ⟨s.watches, id, h⟩

theorem WatchMove.after {s t u : State} (h : SameBooks s t) (k : WatchMove t u) : WatchMove s u := by
  obtain ⟨ws, law, books⟩ := k
  refine ⟨ws, fun a => (law (a.of_watches h.watches)).of_watches rfl, ?_⟩
  exact ⟨books.table.trans h.table, books.freeEntries.trans h.freeEntries, books.nextToken.trans h.nextToken,
    books.poolFree.trans h.poolFree, books.watches, fun c => (books.holds c).trans (h.holds c),
    fun c => (books.waits c).trans (h.waits c)⟩

theorem WatchMove.of_record {α : Type} {s t : State} {q : ClientId} {op : Decode.Opcode} {read : Record → Option α}
    {names : α → List Name} {adjust : Limits → α → α} {owner : Taken → α → State → State}
    (ho : ∀ k f u, WatchMove u (owner k f u))
    (h : takeEvent s (fun u => u.takeRecord q op read names adjust owner) = .next t) : WatchMove s t := by
  refine takeEvent_keeps (P := WatchMove s) (.of_books (.refl s)) (fun u _ hu => .after (.of_ringsOnly (.quiet s)) ?_) h
  obtain ⟨r, -, ⟨status, charge, rfl⟩ | ⟨f, -, -, rfl⟩⟩ := takeRecord_cases hu
  · exact .of_books (.refuseAtIntake _ _ status charge)
  · exact .after (.of_ringsOnly (.idleFetch _ q)) (ho _ _ _)

theorem WatchMove.watchTaken (k : Taken) (f : Decode.WatchFields) (s : State) : WatchMove s (watchTaken k f s) := by
  unfold Machine.watchTaken
  split
  · exact .of_books (.answer s k _)
  · rename_i tag
    split
    · exact .of_books (.answer s k _)
    · rename_i owned
      split
      · exact .of_books (.answer s k _)
      · rename_i entries
        exact ⟨_, fun a => a.place (w := newWatch k f) rfl (Bool.not_eq_true _ |>.mp tag) (Nat.not_le.mp owned) (Nat.not_le.mp entries),
          .answer _ k _⟩

theorem WatchMove.unwatchTaken (k : Taken) (x : Tag) (s : State) : WatchMove s (unwatchTaken k x s) := by
  unfold Machine.unwatchTaken
  split
  · exact ⟨_, fun a => a.sublist List.filter_sublist, .answer _ k _⟩
  · exact .of_books (.answer s k _)

theorem SameBooks.matchNext {name : Name} {s t : State} (h : matchNext name s = some t) : SameBooks s t := by
  unfold Machine.matchNext at h
  split at h <;> cases h
  refine trans ?_ (of_ringsOnly (.matchAll _ _ _))
  exact of_eqs rfl rfl rfl rfl rfl rfl

theorem WatchMove.removeWatchesStep {c : ClientId} {s t : State} (h : removeWatchesStep c s = some t) : WatchMove s t := by
  unfold Machine.removeWatchesStep at h
  split at h <;> cases h
  exact ⟨_, fun a => a.sublist List.filter_sublist, .of_eqs rfl rfl rfl rfl rfl rfl⟩

/-! ### Every command -/

/-- What a command may change of the books. -/
inductive Moves (s t : State) : Prop
  | locks (move : LockMove s t)
  | watches (move : WatchMove s t)
  | resets (regs : Registers) (capture : Capture) (books : SameBooks (.afresh s.pending (s.epoch + 1) regs capture) t)

theorem Moves.books {s t : State} (h : SameBooks s t) : Moves s t := .watches (.of_books h)

/-- A record command whose owner leaves the books alone. -/
theorem Moves.record {α : Type} {s t : State} {q : ClientId} {op : Decode.Opcode} {read : Record → Option α}
    {names : α → List Name} {adjust : Limits → α → α} {owner : Taken → α → State → State}
    (ho : ∀ k f u, SameBooks u (owner k f u))
    (h : takeEvent s (fun u => u.takeRecord q op read names adjust owner) = .next t) : Moves s t := .books (.recordEvent ho h)

theorem Moves.event {s t : State} {k : State → Option State} (hk : ∀ {u v}, k u = some v → SameBooks u v)
    (h : takeEvent s k = .next t) : Moves s t := .books (.takeEvent (fun _ hu => hk hu) h)

theorem Moves.softReset {s t : State} {andStart : Bool} (h : execSoftReset andStart s = .next t) : Moves s t := by
  rw [execSoftReset, softReset_eq] at h
  exact .resets s.regs s.capture (Host.Outcome.next.inj h ▸ .ite (fun _ => .startEngine _) (fun _ => .refl _))

theorem Moves.registerWrite {s t : State} {offset : BitVec 12} {value : Word} (h : execRegisterWrite offset value s = .next t) :
    Moves s t := by
  unfold execRegisterWrite at h
  generalize Decode.registerWrite offset value = i at h
  cases i with
  | submit c index => exact .event (fun hu => .postTaken .submitPost hu) h
  | consumed c index => exact .event (fun hu => .postTaken .consumedPost hu) h
  | arm c index => exact .event (fun hu => .postTaken .armPost hu) h
  | start => exact .books (Host.Outcome.next.inj h ▸ .startEngine s)
  | softReset andStart => exact .softReset h
  | faultClear _ => exact .books (Host.Outcome.next.inj h ▸ .of_eqs rfl rfl rfl rfl rfl rfl)
  | _ => exact .books (Host.Outcome.next.inj h ▸ .ite (fun _ => .of_eqs rfl rfl rfl rfl rfl rfl) (fun _ => .refl s))

theorem exec_moves {i : Instr} {s t : State} (h : exec i s = .next t) : Moves s t := by
  rcases hi : isLockEvent i with _ | _
  case true => exact .locks (exec_lockEvent hi h)
  cases i with
  | watch q => exact .watches (.of_record .watchTaken h)
  | unwatch q => exact .watches (.of_record .unwatchTaken h)
  | nop q => exact .record (fun k _ u => .answer u k _) h
  | configureClient q => exact .record .configureTaken h
  | configureClientRingSwap c => exact .event .swapRings h
  | enableClient q => exact .record .enableTaken h
  | disableClient q => exact .record .disableTaken h
  | resetClient q => exact .record .resetTaken h
  | reinstateClient q => exact .record .reinstateTaken h
  | setStanding q => exact .record .setStandingTaken h
  | queryClient q => exact .record (fun k _ u => .answerWith u k _ _) h
  | setTimebase q => exact .record .timebaseTaken h
  | setLimits q => exact .record .limitsTaken h
  | submit c index => exact .event (fun hu => .postTaken .submitPost hu) h
  | consumed c index => exact .event (fun hu => .postTaken .consumedPost hu) h
  | arm c index => exact .event (fun hu => .postTaken .armPost hu) h
  | postUndefinedKind c index => cases h; exact .books (.refl s)
  | start => cases h; exact .books (.startEngine s)
  | softReset andStart => exact .softReset h
  | faultClear value => cases h; exact .books (.of_eqs rfl rfl rfl rfl rfl rfl)
  | registerWrite offset value => exact .registerWrite h
  | powerOn => cases h; exact .resets Registers.zero Capture.empty (.refl _)
  | hostLinkReset => cases h; exact .resets Registers.zero Capture.empty (.refl _)
  | fetchGrant => exact .event .fetchNext h
  | fetchReadReturn access bytes => exact .books (.report (.takeEvent fun _ hu => .of_ringsOnly (.returnRead hu)) h)
  | completionWriteEnd access => exact .books (.report (.takeEvent fun _ hu => .of_ringsOnly (.endWrite hu)) h)
  | clientSubmissionReadFault access kind => exact .books (.report (fun e => by cases e; exact .clientReadFault _ _ s) h)
  | clientCompletionWriteFault access kind => exact .books (.report (fun e => by cases e; exact .clientWriteFault _ _ s) h)
  | controlReadFault failure => exact .books (.report (fun e => by cases e; exact .controlReadFault _ s) h)
  | controlWriteFault failure => exact .books (.report (fun e => by cases e; exact .controlWriteFault _ s) h)
  | tick => exact .books (.takeEvent (k := fun u => some u.tickArrives) (fun u hu => by cases hu; exact .tickArrives _) h)
  | owedTickSweep => exact .event .startOwed h
  | recoveryVisit c => exact .event .visitRecovering h
  | recoveryComplete c => exact .event .completeVisit h
  | standingCharge c amount => exact .event .takeCharge h
  | standingCredit c => exact .event .takeCredit h
  | teardownRemoveWatches c =>
    refine .watches (takeEvent_keeps (P := WatchMove s) (.of_books (.refl s)) (fun u _ hu => ?_) h)
    exact .after (.of_ringsOnly (.quiet s)) (.removeWatchesStep hu)
  | teardownEnd c => exact .event .endTeardownStep h
  | watchEventMatch name => exact .event .matchNext h
  | unknownOpcode q => exact .event .refuseUnknown h
  | _ => cases hi

/-- A step is the passing of a unit of time, or a command on the state with the queue's rest. -/
theorem step_moves {s t : State} (h : step s = .next t) : ∃ q, Moves { s with pending := q } t := by
  rcases step_cases h with rfl | ⟨c, rest, -, hc⟩
  · exact ⟨s.pending, .books (.unitPasses s)⟩
  · exact ⟨rest, exec_moves hc⟩

/-! ## The laws of the table, the capacities, the tokens and the watches -/

theorem TableLaw.afresh (pending : List Instr) (epoch : Epoch) (regs : Registers) (capture : Capture) :
    TableLaw (.afresh pending epoch regs capture) :=
  ⟨.nil, fun e he => by cases he⟩

theorem CapacityLaw.afresh (pending : List Instr) (epoch : Epoch) (regs : Registers) (capture : Capture) :
    CapacityLaw (.afresh pending epoch regs capture) := ⟨rfl, rfl⟩

theorem TokenLaw.afresh (pending : List Instr) (epoch : Epoch) (regs : Registers) (capture : Capture) :
    TokenLaw (.afresh pending epoch regs capture) :=
  ⟨le_rfl, Nat.one_le_two_pow⟩

theorem WatchLaw.afresh (pending : List Instr) (epoch : Epoch) (regs : Registers) (capture : Capture) :
    WatchLaw (.afresh pending epoch regs capture) :=
  ⟨Nat.zero_le _, fun _ => Nat.zero_le _, .nil⟩

theorem SameBooks.capacityLaw {s t : State} (h : SameBooks s t) (a : CapacityLaw s) : CapacityLaw t := by
  refine ⟨?_, ?_⟩
  · rw [h.freeEntries, h.table]; exact a.entries
  · rw [h.poolFree, h.table]; exact a.waiters

theorem SameBooks.tokenLaw {s t : State} (h : SameBooks s t) (a : TokenLaw s) : TokenLaw t := by
  refine ⟨?_, ?_⟩ <;> rw [h.nextToken]
  exacts [a.low, a.high]

namespace Moves
variable {s t : State}

theorem tableLaw (h : Moves s t) (a : TableLaw s) : TableLaw t := by
  rcases h with m | ⟨ws, -, books⟩ | ⟨regs, capture, books⟩
  · exact (m.kept (C := False) (A := False) ⟨a, fun c => c.elim, fun c => c.elim⟩).1
  · exact a.of_table books.table
  · exact (TableLaw.afresh _ _ regs capture).of_table books.table

theorem capacityLaw (h : Moves s t) (table : TableLaw s) (a : CapacityLaw s) : CapacityLaw t := by
  rcases h with m | ⟨ws, -, books⟩ | ⟨regs, capture, books⟩
  · exact (m.kept (C := True) (A := False) ⟨table, fun _ => a, fun c => c.elim⟩).2 trivial
  · exact books.capacityLaw ⟨a.entries, a.waiters⟩
  · exact books.capacityLaw (.afresh _ _ regs capture)

theorem tokenLaw (h : Moves s t) (a : TokenLaw s) : TokenLaw t := by
  rcases h with m | ⟨ws, -, books⟩ | ⟨regs, capture, books⟩
  · exact m.tokenLaw a
  · exact books.tokenLaw ⟨a.low, a.high⟩
  · exact books.tokenLaw (.afresh _ _ regs capture)

theorem watchLaw (h : Moves s t) (a : WatchLaw s) : WatchLaw t := by
  rcases h with m | ⟨ws, law, books⟩ | ⟨regs, capture, books⟩
  · exact a.of_watches m.watches
  · exact (law a).of_watches books.watches
  · exact (WatchLaw.afresh _ _ regs capture).of_watches books.watches

end Moves

end Sys2Proof.Machine

open Sys2Proof.Machine in
/-- Settles O6: a lock event goes through lawful entries, and no other command touches the table but a reset, which empties it. -/
theorem everyStepKeepsTheTableLaw : Obligations.EveryStepKeepsTheTableLaw := by
  intro s t a h
  obtain ⟨q, m⟩ := step_moves h
  exact m.tableLaw (a.of_table rfl)

open Sys2Proof.Machine in
/-- Settles O7: the operations of a lock event balance the table against the free entries, and the waiter lists against the pool. -/
theorem everyStepKeepsTheCapacities : Obligations.EveryStepKeepsTheCapacities := by
  intro s t table a h
  obtain ⟨q, m⟩ := step_moves h
  exact m.capacityLaw (table.of_table rfl) ⟨a.entries, a.waiters⟩
end

section
/-! PROOFS. The laws right after a reset, and client 0. -/

namespace Sys2Proof.Machine

/-! ## The block after a reset -/

section
variable (q : List Instr) (n : Epoch) (regs : Registers) (capture : Capture) (c : ClientId)

theorem getElem_replicate_client {α : Type} (x : α) (c : ClientId) : (Vector.replicate 32 x)[c] = x := by
  simp [Fin.getElem_fin]

theorem State.client_afresh :
    (State.afresh q n regs capture).client c = if c = 0 then ClientRecord.control else ClientRecord.unconfigured := by
  change ((State.setClient { State.afresh q n regs capture with clients := Vector.replicate 32 .unconfigured } 0 .control).client c) = _
  rw [State.client_setClient]
  exact if_congr Iff.rfl rfl (getElem_replicate_client _ c)

theorem State.ring_afresh :
    (State.afresh q n regs capture).ring c = .reset (if c = 0 then regs.place else .none) := by
  change ((State.setRing { State.afresh q n regs capture with rings := Vector.replicate 32 (.reset .none) } 0 (.reset regs.place)).ring c) = _
  rw [State.ring_setRing, apply_ite RingContext.reset]
  exact if_congr Iff.rfl rfl (getElem_replicate_client _ c)

theorem State.account_afresh : (State.afresh q n regs capture).account c = Account.reset := getElem_replicate_client _ c

theorem State.standing_afresh : (State.afresh q n regs capture).standing c = Standing.reset := getElem_replicate_client _ c

theorem State.recovery_afresh : (State.afresh q n regs capture).recovery c = 0 := getElem_replicate_client _ c

theorem ControlLaw.afresh : ControlLaw (State.afresh q n regs capture) :=
  ⟨by rw [State.client_afresh, if_pos rfl], State.standing_afresh q n regs capture 0⟩

theorem State.client_afresh_cases :
    (State.afresh q n regs capture).client c = .control ∨ (State.afresh q n regs capture).client c = .unconfigured := by
  rw [State.client_afresh]; split <;> simp

theorem State.answersOwed_afresh : (State.afresh q n regs capture).answersOwed = 0 := by
  rw [State.answersOwed_eq, List.sum_eq_zero]
  intro n hn
  obtain ⟨c, -, rfl⟩ := List.mem_map.mp hn
  rcases State.client_afresh_cases q n regs capture c with h | h <;> rw [h] <;> rfl

theorem ClientLaws.afresh : ClientLaws (State.afresh q n regs capture) := by
  have ha := State.account_afresh q n regs capture
  have hr := State.ring_afresh q n regs capture
  have hs := State.standing_afresh q n regs capture
  have hc := State.client_afresh_cases q n regs capture
  have noTeardown : ∀ c, ((State.afresh q n regs capture).client c).teardown = none ∧
      ((State.afresh q n regs capture).client c).recoveryPending = false ∧
      ((State.afresh q n regs capture).client c).state ∈ [.unconfigured, .active] := fun c => by
    rcases hc c with h | h <;> rw [h] <;> decide
  refine ⟨⟨?_, ?_, ?_, ?_, ?_⟩, ⟨?_, ?_⟩, ⟨?_, ?_, ?_, ?_, ?_⟩, ⟨?_⟩, ?_⟩
  · exact fun c => by rw [ha]; rfl
  · exact fun c i hi => by rw [ha] at hi; cases hi
  · exact fun e he => by cases he
  · exact fun c => by rw [ha]; exact .nil
  · exact fun c i hi => by rw [ha] at hi; cases hi
  · exact fun c _ => by rw [ha]; exact Nat.zero_le _
  · exact fun c _ => by rw [ha]; exact Nat.zero_le _
  · exact fun c => by rw [hr]; exact Nat.zero_le _
  · exact fun c => by
      rw [State.reservedFor_eq, State.reservedHere, State.answersOwed_afresh, hr, ha]; simp [RingContext.reset, RingContext.handed, Account.reset]
  · exact fun _ c _ => by rw [hr]; rfl
  · exact fun c _ => by rw [hr]; rfl
  · exact fun _ => by rw [hr]; exact ⟨rfl, rfl⟩
  · exact fun c _ _ => by rw [ha, hr]; exact ⟨rfl, rfl, (fun w hw => by cases hw), rfl⟩
  · have score : ∀ c, ((State.afresh q n regs capture).standing c).score = 0 := fun c => by rw [hs]; rfl
    refine ⟨?_, fun c => by rw [hs]; rfl, fun c => by rw [score]; decide, fun c _ => by rw [score]; decide, fun c h => ?_,
      fun c _ => score c, fun c _ => (noTeardown c).1, fun c h => ?_, fun c t ht => ?_, fun x hx => by cases hx⟩
    · exact (by decide : 1 ≤ 64 ∧ 64 < 160 ∧ 160 ≤ 254)
    · obtain ⟨-, noRecovery, state⟩ := noTeardown c
      rw [noRecovery] at h
      generalize ((State.afresh q n regs capture).client c).state = x at h state
      cases x <;> simp at h state
    · rw [(noTeardown c).2.1] at h; cases h
    · rw [(noTeardown c).1] at ht; cases ht

theorem LinkLaw.afresh : LinkLaw (State.afresh q n regs capture) := fun c a b h => by cases h

end

end Sys2Proof.Machine

open Sys2Proof.Machine in
/-- Settles O10: the reset state is one of those that any reset leaves. -/
theorem resetMeetsTheLaws : Obligations.ResetMeetsTheLaws :=
  ⟨.afresh [] 0 _ _, .afresh [] 0 _ _, .afresh [] 0 _ _, .afresh [] 0 _ _, .afresh [] 0 _ _, .afresh [] 0 _ _, .afresh [] 0 _ _⟩

open Sys2Proof.Machine in
/-- Settles O2: the vectors of the reset state are read client by client. -/
theorem resetValues : Obligations.ResetValues := by
  have ha := State.account_afresh [] 0 Registers.zero Capture.empty
  have hr := State.ring_afresh [] 0 Registers.zero Capture.empty
  have hc := State.client_afresh [] 0 Registers.zero Capture.empty
  refine ⟨⟨rfl, rfl, rfl, rfl, rfl⟩, ⟨rfl, rfl, rfl, rfl, rfl, rfl⟩, ha, State.standing_afresh [] 0 _ _, rfl,
    ⟨rfl, rfl, rfl, State.recovery_afresh [] 0 _ _⟩, ?_, fun c hne => ?_, fun c => ?_, fun c => ?_, ?_⟩
  · exact congrArg ClientRecord.state (hc 0)
  · exact congrArg ClientRecord.state ((hc c).trans (if_neg hne))
  · rcases State.client_afresh_cases [] 0 Registers.zero Capture.empty c with h | h <;> · rw [show State.reset.client c = _ from h]; exact ⟨rfl, rfl⟩
  · intro r
    rw [show r = _ from hr c]
    exact ⟨rfl, rfl, rfl, rfl, rfl, rfl, rfl, rfl, rfl, rfl, rfl⟩
  · intro offset low high
    have apart : offset ≠ 0x000 ∧ offset ≠ 0x008 ∧ offset ≠ 0x080 ∧ offset ≠ 0x084 := by
      refine ⟨?_, ?_, ?_, ?_⟩ <;> · rintro rfl; revert low high; decide
    obtain ⟨h0, h8, h80, h84⟩ := apart
    rw [State.readRegister, if_neg h0, if_neg h8, if_neg h80, if_neg h84]
    simp only [show State.reset.regs = Registers.zero from rfl, Registers.zero, ite_self]
end

section
/-! PROOFS. What the control side asks of one client, and the operations on client records and standing. -/

namespace Sys2Proof.Machine

/-! ## One client -/

/-- The client has no hold, no wait, no watch, and nothing fetched (R132). -/
def State.recordless (s : State) (c : ClientId) : Prop :=
  (s.account c).holds = [] ∧ (s.account c).waits = 0 ∧ (∀ w ∈ s.watches, w.owner ≠ c) ∧ (s.ring c).fetch = .idle

/-- What the standing law asks of one client. -/
structure InStanding (l : Limits) (r : ClientRecord) (x : Standing) : Prop where
  grade : x.grade = l.grades x.score
  top : x.score ≤ 255
  active : r.state = .active → x.score < 255
  isolated : r.state ∈ [.isolated, .recovering] ∨ r.recoveryPending = true → x.score = 255
  unconfigured : r.state = .unconfigured → x.score = 0
  apart : r.state ∈ [.unconfigured, .active, .recovering] → r.teardown = none
  pending : r.recoveryPending = true → r.state ∈ [.disabled, .halted]
  reset : ∀ t ∈ r.teardown, t.cause = .reset → r.recoveryPending = false

section
variable {es : List LockEntry} {ds fs : List ClientId} {s t : State} {c : ClientId}

theorem StandingLaw.member (h : StandingLaw s) (c : ClientId) : InStanding s.limits (s.client c) (s.standing c) :=
  ⟨h.grade c, h.top c, h.active c, h.isolated c, h.unconfigured c, h.apart c, h.pending c, h.reset c⟩

theorem StandingLaw.of_members (limits : 1 ≤ s.limits.warning ∧ s.limits.warning < s.limits.restricted ∧ s.limits.restricted ≤ 254)
    (members : ∀ c, InStanding s.limits (s.client c) (s.standing c))
    (charged : ∀ x ∈ s.standingQueue, ∀ c n, x = .charge c n → (s.client c).state ≠ .unconfigured) : StandingLaw s :=
  ⟨limits, fun c => (members c).grade, fun c => (members c).top, fun c => (members c).active, fun c => (members c).isolated,
    fun c => (members c).unconfigured, fun c => (members c).apart, fun c => (members c).pending, fun c => (members c).reset, charged⟩

/-- One client's record and standing change. -/
theorem StandingLaw.change (h : StandingLaw s) (c : ClientId) (limits : t.limits = s.limits)
    (clients : ∀ d, d ≠ c → t.client d = s.client d) (standings : ∀ d, d ≠ c → t.standing d = s.standing d)
    (own : InStanding s.limits (t.client c) (t.standing c))
    (configured : (t.client c).state = .unconfigured → (s.client c).state = .unconfigured)
    (queue : ∀ x ∈ t.standingQueue, x ∈ s.standingQueue) : StandingLaw t := by
  refine .of_members (limits ▸ h.limits) (fun d => ?_) (fun x hx d n hd hu => ?_)
  · rw [limits]
    by_cases e : d = c
    · subst e; exact own
    · rw [clients d e, standings d e]; exact h.member d
  · refine h.charged x (queue x hx) d n hd ?_
    by_cases e : d = c
    · subst e; exact configured hu
    · rw [← clients d e]; exact hu

/-- The lowest grade is that of score 0 (R102, R104). -/
theorem StandingLaw.grades_zero (h : StandingLaw s) : s.limits.grades 0 = .good := if_pos h.limits.1

theorem StandingLaw.recovery_none (h : StandingLaw s) (k : (s.client c).state ≠ .disabled) (l : (s.client c).state ≠ .halted) :
    (s.client c).recoveryPending = false := by
  by_contra hp
  have := h.pending c (by simpa using hp)
  simp [k, l] at this

/-! ## The laws of the clients but for the standing -/

/-- The laws of the clients in the middle of an event, but for the standing law. -/
structure Firm (es : List LockEntry) (ds : List ClientId) (s : State) : Prop where
  books : Books es s
  quotas : QuotaLaw s
  owing : Owing ds s
  idle : IdleLaw s
  awake : ∀ c ∈ ds, ¬ (s.client c).dormant

theorem Sound.firm (h : Sound es ds s) : Firm es ds s := ⟨h.books, h.quotas, h.owing, h.idle, h.awake⟩

theorem Firm.sound (h : Firm es ds s) (k : StandingLaw s) : Sound es ds s := ⟨h.books, h.quotas, h.owing, h.idle, k, h.awake⟩

namespace Firm

/-- An event that leaves the books alone: what it may do to the clients. -/
theorem change (h : Firm es ds s) (books : SameBooks s t) (owing : Owing fs t) (awake : ∀ c ∈ fs, ¬ (t.client c).dormant)
    (quota : ∀ c, (t.client c).state ≠ .halted →
      ((t.client c).config = (s.client c).config ∧ (s.client c).state ≠ .halted) ∨ s.recordless c)
    (idle : ∀ c, (t.client c).dormant → (s.client c).dormant ∨ s.recordless c)
    (fetch : ∀ c, (t.client c).dormant → (s.ring c).fetch = .idle → (t.ring c).fetch = .idle) : Firm es fs t := by
  refine ⟨h.books.congr books.holds books.waits books.nextToken.ge, ⟨fun c k => ?_, fun c k => ?_⟩, owing, ⟨fun c k l => ?_⟩, awake⟩
  · rw [books.holds]
    rcases quota c k with ⟨config, hk⟩ | none
    · rw [config]; exact h.quotas.holds c hk
    · rw [none.1]; exact Nat.zero_le _
  · rw [books.waits]
    rcases quota c k with ⟨config, hk⟩ | none
    · rw [config]; exact h.quotas.waits c hk
    · rw [none.2.1]; exact Nat.zero_le _
  · have : s.recordless c := (idle c ⟨k, l⟩).elim (fun d => h.idle.of_dormant d) id
    obtain ⟨hh, hw, hv, hf⟩ := this
    rw [books.holds, books.waits, books.watches]
    exact ⟨hh, hw, hv, fetch c ⟨k, l⟩ hf⟩

/-- The clients stand as they stood. -/
theorem sameClients (h : Firm es ds s) (books : SameBooks s t) (clients : ∀ c, t.client c = s.client c) (owing : Owing fs t)
    (awake : ∀ c ∈ fs, ¬ (s.client c).dormant)
    (fetch : ∀ c, (s.client c).dormant → (s.ring c).fetch = .idle → (t.ring c).fetch = .idle) : Firm es fs t := by
  refine h.change books owing (fun c hc => clients c ▸ awake c hc) (fun c k => ?_) (fun c k => .inl (clients c ▸ k))
    (fun c k => fetch c (clients c ▸ k))
  rw [clients] at k ⊢
  exact .inl ⟨rfl, k⟩

theorem setStanding (h : Firm es ds s) (c : ClientId) (x : Standing) : Firm es ds (s.setStanding c x) :=
  h.sameClients (.setStanding s c x) (fun _ => rfl) (h.owing.of_eqs rfl rfl rfl (fun _ => rfl)) h.awake (fun _ _ k => k)

theorem notify (h : Firm es ds s) (c : ClientId) (n : Notice) : Firm es ds (s.notify c n) :=
  h.sameClients (.notify s c n) (SameControl.notify s c n).client (h.owing.notify c n) h.awake
    (fun b _ k => (Sound.fetch_notify s c n b).trans k)

theorem regrade (h : Firm es ds s) (c : ClientId) : Firm es ds (s.regrade c) := by
  unfold State.regrade
  dsimp only
  split
  · exact h
  · split
    · exact h.setStanding _ _
    · split
      · exact ((h.setStanding _ _).notify _ _).notify _ _
      · exact (h.setStanding _ _).notify _ _

theorem setClient (h : Firm es ds s) (c : ClientId) (r : ClientRecord) (owing : Owing fs (s.setClient c r))
    (awake : ∀ d ∈ fs, ¬ ((s.setClient c r).client d).dormant)
    (quota : r.state ≠ .halted → (r.config = (s.client c).config ∧ (s.client c).state ≠ .halted) ∨ s.recordless c)
    (idle : r.dormant → (s.client c).dormant ∨ s.recordless c) : Firm es fs (s.setClient c r) := by
  refine h.change (.setClient s c r) owing awake (fun d k => ?_) (fun d k => ?_) (fun _ _ k => k)
  · rw [State.client_setClient] at k ⊢
    split
    · rename_i e; rw [if_pos e] at k; subst e; exact quota k
    · rename_i e; rw [if_neg e] at k; exact .inl ⟨rfl, k⟩
  · rw [State.client_setClient] at k
    split at k
    · rename_i e; subst e; exact idle k
    · exact .inl k

end Firm

/-! ## Standing -/

theorem State.client_regrade (s : State) (c d : ClientId) : (s.regrade c).client d = s.client d := by
  unfold State.regrade
  dsimp only
  split
  · rfl
  · split
    · rfl
    · split <;> simp [State.notify_eq]

theorem State.limits_regrade (s : State) (c : ClientId) : (s.regrade c).limits = s.limits := by
  unfold State.regrade
  dsimp only
  split
  · rfl
  · split
    · rfl
    · split <;> simp [State.notify_eq]

theorem State.standingQueue_regrade (s : State) (c : ClientId) : (s.regrade c).standingQueue = s.standingQueue := by
  unfold State.regrade
  dsimp only
  split
  · rfl
  · split
    · rfl
    · split <;> simp [State.notify_eq]

/-- Only the client's own grade may change, and then to that of its score (R103). -/
theorem State.standing_regrade (s : State) (c d : ClientId) : (s.regrade c).standing d =
    if d = c ∧ c ≠ 0 then { s.standing c with grade := s.limits.grades (s.standing c).score } else s.standing d := by
  have told : ∀ x, ((s.setStanding c x).standing d) = if d = c then x else s.standing d := s.standing_setStanding c d
  unfold State.regrade
  dsimp only
  rw [gradeOf_eq_grades]
  by_cases zero : c = 0
  · rw [if_pos (.inl zero), if_neg (fun h => h.2 zero)]
  by_cases same : s.limits.grades (s.standing c).score = (s.standing c).grade
  · rw [if_pos (.inr same), same]
    split
    · rename_i e; rw [e.1]
    · rfl
  · rw [if_neg (not_or.mpr ⟨zero, same⟩)]
    simp only [zero, ne_eq, not_false_eq_true, and_true]
    split
    · exact told _
    · split <;> simp only [State.notify_eq, State.standing_noticedTo, told]

/-- A score is set and the client graded: the other clients stand as they stood. -/
theorem State.standing_setScore_regrade (s : State) (c d : ClientId) (n : Nat) (zero : c ≠ 0) :
    ((s.setScore c n).regrade c).standing d = if d = c then { score := n, grade := s.limits.grades n } else s.standing d := by
  rw [State.standing_regrade, State.setScore]
  by_cases e : d = c
  · simp [e, zero]
  · simp [e, State.standing_setStanding_of_ne s c d _ e]

theorem Sound.setClient (h : Sound es ds s) (c : ClientId) (r : ClientRecord) (owing : Owing fs (s.setClient c r))
    (awake : ∀ d ∈ fs, ¬ ((s.setClient c r).client d).dormant)
    (quota : r.state ≠ .halted → (r.config = (s.client c).config ∧ (s.client c).state ≠ .halted) ∨ s.recordless c)
    (idle : r.dormant → (s.client c).dormant ∨ s.recordless c) (own : InStanding s.limits r (s.standing c))
    (configured : r.state = .unconfigured → (s.client c).state = .unconfigured) : Sound es fs (s.setClient c r) := by
  refine (h.firm.setClient c r owing awake quota idle).sound (h.standing.change c rfl ?_ (fun _ _ => rfl) ?_ ?_ (fun _ k => k))
  · exact fun d hd => s.client_setClient_of_ne c d r hd
  · rw [State.client_setClient_self]; exact own
  · rw [State.client_setClient_self]; exact configured

/-- A change of the clock, of the position of the arbiter, of the capture, of the events in transit. -/
theorem Sound.aside (h : Sound es ds s) (books : SameBooks s t) (rings : t.rings = s.rings) (engine : t.engine = s.engine)
    (clients : t.clients = s.clients) (standings : t.standings = s.standings) (limits : t.limits = s.limits)
    (queue : t.standingQueue = s.standingQueue) : Sound es ds t :=
  h.of_same books ⟨engine, clients, standings, limits, books.watches, books.nextToken.ge⟩ rings queue

end

end Sys2Proof.Machine
end

section
/-! PROOFS. The commands of the control queue, client 0's law and the laws of the clients together. -/

namespace Sys2Proof.Machine

/-- Client 0's law, and from `A` the laws of the clients in the middle of an event of the RUNNING engine. -/
structure Ruled (A : Prop) (es : List LockEntry) (ds : List ClientId) (s : State) : Prop where
  control : ControlLaw s
  sound : A → Sound es ds s

section
variable {A : Prop} {es : List LockEntry} {ds fs : List ClientId} {s t : State} {c : ClientId} {k : Taken}

theorem ControlLaw.of_same (h : ControlLaw s) (client : t.client 0 = s.client 0) (standing : t.standing 0 = s.standing 0) :
    ControlLaw t := ⟨client.trans h.record, standing.trans h.standing⟩

theorem ControlLaw.setClient (h : ControlLaw s) (hc : c ≠ 0) (r : ClientRecord) : ControlLaw (s.setClient c r) :=
  h.of_same (s.client_setClient_of_ne c 0 r hc.symm) rfl

theorem ControlLaw.setStanding (h : ControlLaw s) (hc : c ≠ 0) (x : Standing) : ControlLaw (s.setStanding c x) :=
  h.of_same rfl (s.standing_setStanding_of_ne c 0 x hc.symm)

theorem ControlLaw.awake (h : ControlLaw s) : ¬ (s.client 0).dormant := by
  rw [h.record]; rintro ⟨-, h | h⟩ <;> revert h <;> decide

theorem ControlLaw.ne_zero (h : ControlLaw s) (k : s.client c ≠ .control) : c ≠ 0 := by
  rintro rfl; exact k h.record

theorem ClientRecord.muted_iff (r : ClientRecord) : r.muted = true ↔ r.state = .halted ∨ ∃ t, r.teardown = some t ∧ t.cause = .reset := by
  unfold ClientRecord.muted
  cases r.teardown <;> simp

/-- A client that is not HALTED nor under teardown is written to. -/
theorem ClientRecord.not_muted {r : ClientRecord} {p : Prop} (m : r.muted = true) (state : r.state ≠ .halted)
    (teardown : r.teardown = none) : p := by
  rw [ClientRecord.muted_iff, teardown] at m
  simp [state] at m

namespace Ruled

theorem act (h : Ruled A es ds s) (client : t.client 0 = s.client 0) (standing : t.standing 0 = s.standing 0)
    (sound : Sound es ds s → Sound es fs t) : Ruled A es fs t :=
  ⟨h.control.of_same client standing, fun a => sound (h.sound a)⟩

theorem rings (h : Ruled A es ds s) (k : SameControl s t) (sound : Sound es ds s → Sound es fs t) : Ruled A es fs t :=
  h.act (k.client 0) (k.standing 0) sound

theorem answer (h : Ruled A es (k.client :: ds) s) (status : Status) : Ruled A es ds (s.answer k status) :=
  h.rings (.answer s k status) (fun a => a.answer status)

theorem answerWith (h : Ruled A es (k.client :: ds) s) (status : Status) (body : Body) :
    Ruled A es ds (s.answerWith k status body) :=
  h.rings (.answerWith s k status body) (fun a => a.answerWith status body)

theorem notify (h : Ruled A es ds s) (c : ClientId) (n : Notice) : Ruled A es ds (s.notify c n) :=
  h.rings (.notify s c n) (fun a => a.notify c n)

theorem aside (h : Ruled A es ds s) (books : SameBooks s t) (rings : t.rings = s.rings) (engine : t.engine = s.engine)
    (clients : t.clients = s.clients) (standings : t.standings = s.standings) (limits : t.limits = s.limits)
    (queue : t.standingQueue = s.standingQueue) : Ruled A es ds t :=
  h.act (by simp only [State.client, clients]) (by simp only [State.standing, standings])
    (fun a => a.aside books rings engine clients standings limits queue)

theorem setRecovery (h : Ruled A es ds s) (c : ClientId) (n : Nat) : Ruled A es ds (s.setRecovery c n) :=
  h.aside (.setRecovery s c n) rfl rfl rfl rfl rfl rfl

theorem forgetClient (h : Ruled A es ds s) (c : ClientId) : Ruled A es ds (s.forgetClient c) :=
  h.aside (.forgetClient s c) rfl rfl rfl rfl rfl rfl

theorem setClient (h : Ruled A es ds s) (hc : c ≠ 0) {r : ClientRecord} (sound : Sound es ds s → Sound es fs (s.setClient c r)) :
    Ruled A es fs (s.setClient c r) := ⟨h.control.setClient hc r, fun a => sound (h.sound a)⟩

theorem ite {p : Prop} [Decidable p] {u : State} (h : p → Ruled A es ds t) (k : ¬ p → Ruled A es ds u) :
    Ruled A es ds (if p then t else u) := by
  split
  · exact h ‹_›
  · exact k ‹_›

/-- A command that names a client (R130, R133). -/
theorem onClient (h : Ruled A es [k.client] s) (target : ClientId) {body : State → State}
    (hb : target ≠ 0 → (s.client target).teardown = none → Ruled A es [] (body s)) : Ruled A es [] (s.onClient k target body) :=
  ite (fun _ => h.answer _) (fun zero => ite (fun _ => h.answer _) (fun busy => hb zero (by simpa using busy)))

/-- The answers that waited are handed on (R133, R134). -/
theorem answerRefs (status : Status) (refs : List CommandRef) : ∀ s : State, Ruled A es (List.replicate refs.length 0 ++ ds) s →
    Ruled A es ds (refs.foldl (fun t ref => t.answerRef ref status) s) := by
  induction refs with
  | nil => exact fun s h => h
  | cons r refs ih => exact fun s h => ih _ (h.rings (.respond s 0 _) (fun a => a.respond _))

theorem answerWaiting (w : Option CommandRef) (h : Ruled A es (List.replicate w.toList.length 0 ++ ds) s) :
    Ruled A es ds (s.answerWaiting w) := by
  cases w with
  | none => exact h
  | some r => exact h.rings (.respond s 0 _) (fun a => a.respond _)

end Ruled

theorem ControlLaw.awakeZero (h : ControlLaw s) {b : ClientId} (hb : b = 0) : ∀ d ∈ [b], ¬ (s.client d).dormant := by
  intro d hd
  rw [List.mem_singleton, hb] at hd
  subst hd
  exact h.awake

/-- An owner that answers or keeps the answer waiting: the slot that is owed moves to the client record (R133, R134). -/
theorem Owing.keepAnswer (h : Owing [0] s) {r : ClientRecord} (silent : r.muted = true → (s.ring c).waiting = [])
    (owed : r.owed = (s.client c).owed + 1) : Owing [] (s.setClient c r) :=
  h.setClient c r silent (fun d hd => (List.count_eq_zero.mpr (by simpa using hd)).symm)
    (by rw [owed]; simp)

/-- The control answers wait for what the client record says no more. -/
theorem Owing.dueAnswers (h : Owing ds s) {r : ClientRecord} (n : Nat) (silent : r.muted = true → (s.ring c).waiting = [])
    (owed : (s.client c).owed = r.owed + n) : Owing (List.replicate n 0 ++ ds) (s.setClient c r) := by
  refine h.setClient c r silent (fun d hd => ?_) ?_
  · rw [List.count_append, List.count_replicate, if_neg (by simpa using hd.symm), Nat.zero_add]
  · rw [List.count_append, List.count_replicate_self, owed]; omega

/-- The answers owed stand as they stood. -/
theorem Owing.sameAnswers (h : Owing ds s) {r : ClientRecord} (silent : r.muted = true → (s.ring c).waiting = [])
    (owed : r.owed = (s.client c).owed) : Owing ds (s.setClient c r) :=
  h.setClient c r silent (fun _ _ => rfl) (by rw [owed])


/-! ## The commands of the control queue -/

theorem Ruled.configureTaken (h : Ruled A es [k.client] s) (hk : k.client = 0) (f : Decode.ConfigureFields) :
    Ruled A es [] (configureTaken k f s) := by
  refine h.onClient f.target fun zero noTeardown => ?_
  dsimp only
  split
  · exact h.answer _
  · rename_i open_
    split
    · exact h.answer _
    · refine h.setClient zero fun a => ?_
      rw [hk] at a
      have bare : s.recordless f.target := by
        have : s.configurable f.target = true := by simpa using open_
        rcases (Bool.or_eq_true _ _).mp this with hs | hs
        · exact a.idle.of_dormant (a.standing.dormant_of_unconfigured (by simpa using hs))
        · simp only [Bool.and_eq_true, beq_iff_eq, List.isEmpty_iff, State.watchCount, List.length_eq_zero_iff,
            List.filter_eq_nil_iff] at hs
          exact ⟨hs.1.1.1.2, hs.1.1.2, hs.1.2, hs.2⟩
      have own := a.standing.member f.target
      refine a.setClient f.target _ (a.owing.keepAnswer (fun m => ClientRecord.not_muted m (by simp) noTeardown) ?_)
        (by simp) (fun _ => .inr bare) (fun _ => .inr bare) ⟨own.grade, own.top, by simp, ?_, by simp, fun _ => noTeardown, by simp, own.reset⟩
        (by simp)
      · simp only [ClientRecord.owed, ClientRecord.swapWith]
        cases (s.client f.target).swap <;> simp [Nat.add_assoc]
      · exact fun hr => own.isolated (.inr (hr.resolve_left (by simp)))

theorem Ruled.enableTaken (h : Ruled A es [k.client] s) (hk : k.client = 0) (target : ClientId) :
    Ruled A es [] (enableTaken k target s) := by
  refine h.onClient target fun zero noTeardown => ?_
  dsimp only
  split
  · exact h.answer _
  · rename_i other
    have state : (s.client target).state = .disabled := by simpa using other
    split
    · rename_i pending
      refine Ruled.answer (h.setClient zero fun a => ?_) _
      have own := a.standing.member target
      refine a.setClient target _ (a.owing.sameAnswers (fun m => ClientRecord.not_muted m (by simp) noTeardown) rfl) ((h.control.setClient zero _).awakeZero hk)
        (fun _ => .inl ⟨rfl, by simp [state]⟩) (fun _ => .inl ⟨noTeardown, .inr pending⟩)
        ⟨own.grade, own.top, by simp, fun _ => own.isolated (.inr pending), by simp, fun _ => noTeardown, by simp, by simp⟩ (by simp)
    · rename_i clear
      split
      · rename_i top
        refine h.setClient zero fun a => ?_
        rw [hk] at a
        have own := a.standing.member target
        refine a.setClient target _ (a.owing.keepAnswer ?_ ?_) (by simp) (fun _ => .inl ⟨rfl, by simp [state]⟩) (by simp [ClientRecord.dormant])
          ⟨own.grade, own.top, by simp, fun _ => top, by simp, by simp, by simp [clear], by simp⟩ (by simp)
        · intro m; rw [ClientRecord.muted_iff] at m; simp at m
        · simp [ClientRecord.owed, noTeardown, Nat.add_comm]
      · rename_i low
        refine Ruled.answer (h.setClient zero fun a => ?_) _
        have own := a.standing.member target
        refine a.setClient target _ (a.owing.sameAnswers (fun m => ClientRecord.not_muted m (by simp) noTeardown) rfl) ((h.control.setClient zero _).awakeZero hk)
          (fun _ => .inl ⟨rfl, by simp [state]⟩) (by simp [ClientRecord.dormant, clear])
          ⟨own.grade, own.top, fun _ => lt_of_le_of_ne own.top low, by simp [clear], by simp, fun _ => noTeardown, by simp [clear], by simp [clear]⟩ (by simp)
  

theorem RingContext.idle_abandon {r : FetchState} : r.abandon = .idle ↔ r = .idle := by cases r <;> simp [FetchState.abandon]

/-- A read in flight that is to be discarded keeps its slot (R35, R136). -/
theorem Sound.abandonRead (h : Sound es ds s) (c : ClientId) : Sound es ds (s.abandonRead c) := by
  refine h.of_ringsOnly (.abandonRead s c) (h.owing.setRing c _ (h.owing.room c) (h.owing.rested c) (h.owing.silent c) (fun _ _ => rfl) ?_)
    h.awake (fun b hb => ?_)
  · simp only [RingContext.idle_abandon]; rfl
  · rw [State.abandonRead, State.ring_setRing]
    split
    · rename_i e; subst e; exact RingContext.idle_abandon.mpr hb
    · exact hb

theorem Ruled.disableTaken (h : Ruled A es [k.client] s) (hk : k.client = 0) (target : ClientId) :
    Ruled A es [] (disableTaken k target s) := by
  refine h.onClient target fun zero noTeardown => ?_
  dsimp only
  split
  · rename_i active
    have disabled := h.setClient (es := es) (fs := [k.client]) zero (r := { s.client target with state := .disabled }) fun a => by
      have own := a.standing.member target
      have settled := a.standing.recovery_none (c := target) (by simp [active]) (by simp [active])
      exact a.setClient target _ (a.owing.sameAnswers (fun m => ClientRecord.not_muted m (by simp) noTeardown) rfl) 
        ((h.control.setClient zero _).awakeZero hk) (fun _ => .inl ⟨rfl, by simp [active]⟩) (by simp [ClientRecord.dormant, settled])
        ⟨own.grade, own.top, by simp, by simp [settled], by simp, fun _ => noTeardown, by simp, own.reset⟩ (by simp)
    exact Ruled.answer (disabled.rings (.of_ringsOnly (.abandonRead _ target)) (fun a => a.abandonRead target)) _
  · split
    · rename_i recovering
      refine Ruled.answer (Ruled.forgetClient (h.setClient zero fun a => ?_) target) _
      have own := a.standing.member target
      exact a.setClient target _ (a.owing.sameAnswers (fun m => ClientRecord.not_muted m (by simp) noTeardown) rfl) 
        ((h.control.setClient zero _).awakeZero hk) (fun _ => .inl ⟨rfl, by simp [recovering]⟩)
        (fun _ => .inl ⟨noTeardown, .inl (by simp [recovering])⟩)
        ⟨own.grade, own.top, by simp, fun _ => own.isolated (.inl (by simp [recovering])), by simp, fun _ => noTeardown, by simp,
          fun t ht => by rw [noTeardown] at ht; cases ht⟩ (by simp)
    · exact h.answer _

theorem resetState_cases (x : ClientState) (h : x ≠ .unconfigured) :
    resetState x = .halted ∧ x = .halted ∨ resetState x = .disabled ∧ x ≠ .halted := by
  cases x <;> simp_all [resetState]

/-- The records that wait behind the write in flight are given up (R127). -/
theorem Sound.dropWaiting (h : Sound es ds s) (c : ClientId) : Sound es ds (s.dropWaiting c) := by
  refine h.of_ringsOnly (.dropWaiting s c) (h.owing.dropWaiting c) h.awake (fun b hb => ?_)
  rw [State.dropWaiting, State.ring_setRing]
  split
  · rename_i e; subst e; exact hb
  · exact hb

theorem State.waiting_dropWaiting (s : State) (c : ClientId) : ((s.dropWaiting c).ring c).waiting = [] := by
  rw [State.dropWaiting, State.ring_setRing_self]

theorem Ruled.resetTaken (h : Ruled A es [k.client] s) (hk : k.client = 0) (target : ClientId) :
    Ruled A es [] (resetTaken k target s) := by
  refine h.onClient target fun zero noTeardown => ?_
  dsimp only
  split
  · exact h.answer _
  · rename_i configured
    have dropped : Ruled A es [k.client] (s.dropWaiting target) := h.rings (.of_ringsOnly (.dropWaiting s target)) (fun a => a.dropWaiting target)
    have begun : Ruled A es [] ((s.dropWaiting target).setClient target { s.client target with
        state := resetState (s.client target).state, teardown := some { cause := .reset, waiting := some k.ref }, recoveryPending := false }) := by
      refine dropped.setClient zero fun a => ?_
      rw [hk] at a
      have own := a.standing.member target
      have state := resetState_cases _ configured
      refine a.setClient target _ (a.owing.keepAnswer (fun _ => State.waiting_dropWaiting s target) ?_) (by simp) (fun live => .inl ⟨rfl, ?_⟩)
        (by simp [ClientRecord.dormant]) ⟨own.grade, own.top, ?_, ?_, ?_, ?_, by simp, by simp⟩ ?_
      · have : ((s.dropWaiting target).client target).teardown = none := noTeardown
        simp only [ClientRecord.owed, this, Option.any_some, Option.isSome_some, if_true, Option.any_none, Bool.false_eq_true, if_false]
        exact Nat.add_comm 1 _ ▸ by rw [Nat.zero_add]; rfl
      · exact (state.resolve_left (fun e => live e.1)).2
      all_goals rcases state with ⟨e, -⟩ | ⟨e, -⟩ <;> simp [e]
    exact (begun.setRecovery target 0).forgetClient target

theorem Ruled.reinstateTaken (h : Ruled A es [k.client] s) (hk : k.client = 0) (target : ClientId) :
    Ruled A es [] (reinstateTaken k target s) := by
  refine h.onClient target fun zero noTeardown => ?_
  dsimp only
  split
  · exact h.answer _
  · rename_i other
    have state : (s.client target).state = .isolated := by simpa using other
    refine Ruled.answer (Ruled.setRecovery (h.setClient zero fun a => ?_) target _) _
    have own := a.standing.member target
    have settled := a.standing.recovery_none (c := target) (by simp [state]) (by simp [state])
    exact a.setClient target _ (a.owing.sameAnswers (fun m => ClientRecord.not_muted m (by simp) noTeardown) rfl)
      ((h.control.setClient zero _).awakeZero hk) (fun _ => .inl ⟨rfl, by simp [state]⟩)
      (fun _ => .inl ⟨noTeardown, .inl (by simp [state])⟩)
      ⟨own.grade, own.top, by simp, fun _ => own.isolated (.inl (by simp [state])), by simp, fun _ => noTeardown, by simp [settled],
        fun t ht => by rw [noTeardown] at ht; cases ht⟩ (by simp)

/-- The ring swap: the new context keeps the reservations, and the answers are due (R134; log entry 10). -/
theorem Ruled.swapRings (h : Ruled A es [] s) (e : swapRings c s = some t) : Ruled A es [] t := by
  obtain ⟨w, hw, idle, fits, rfl⟩ := swapRings_cases e
  have zero : c ≠ 0 := h.control.ne_zero (fun k => by rw [k] at hw; cases hw)
  have swapped : Ruled A es [] (s.setRing c ((s.ring c).swapped w.place)) := by
    refine h.rings (.of_ringsOnly (.setRing s c _)) fun a => ?_
    have empty : (s.ring c).waiting = [] := a.owing.rested c idle
    refine a.of_ringsOnly (.setRing s c _) (a.owing.setRing c _ ?_ (fun _ => rfl) (fun _ => rfl) (fun _ _ => rfl) ?_) (by simp) (fun b hb => ?_)
    · unfold RingContext.Roomy RingContext.swapped RingContext.reset; dsimp only; omega
    · simp [RingContext.swapped, RingContext.reset, RingContext.handed, idle, empty]
    · rw [State.ring_setRing]
      split
      · rename_i eq; subst eq; exact RingContext.idle_abandon.mpr hb
      · exact hb
  refine Ruled.answerRefs .ok w.waiting _ (swapped.setClient zero fun a => ?_)
  have own := a.standing.member c
  refine a.setClient c _ (a.owing.dueAnswers w.waiting.length (fun m => ?_) ?_) (fun d hd => ?_) (fun m => .inl ⟨rfl, m⟩) (fun m => .inl m) 
      ⟨own.grade, own.top, own.active, own.isolated, own.unconfigured, own.apart, own.pending, own.reset⟩ id
  · rw [State.ring_setRing_self]; rfl
  · simp only [ClientRecord.owed, State.client_setRing, hw]; rfl
  · have : d = 0 := by simp at hd; exact hd.2
    subst this
    rw [State.client_setClient_of_ne _ _ _ _ zero.symm]
    exact h.control.awake

end

end Sys2Proof.Machine
end

section
/-! PROOFS. The Standing Unit, recoveries, teardowns and watches under the laws of the clients. -/

namespace Sys2Proof.Machine

section
variable {A : Prop} {es : List LockEntry} {ds fs : List ClientId} {s t : State} {c : ClientId} {k : Taken}

/-! ## The Standing Unit -/

theorem Firm.rescore (h : Firm es ds s) (c : ClientId) (n : Nat) : Firm es ds ((s.setScore c n).regrade c) :=
  (h.setStanding c _).regrade c

theorem StandingLaw.rescore (h : StandingLaw s) (zero : c ≠ 0) {n : Nat}
    (own : InStanding s.limits (s.client c) { score := n, grade := s.limits.grades n }) :
    StandingLaw ((s.setScore c n).regrade c) := by
  have standing := fun d => s.standing_setScore_regrade c d n zero
  refine h.change c (State.limits_regrade _ c) (fun d _ => State.client_regrade _ c d) (fun d hd => ?_) ?_ ?_ ?_
  · rw [standing, if_neg hd]
  · rw [State.client_regrade, standing, if_pos rfl]; exact own
  · rw [State.client_regrade]; exact id
  · rw [State.standingQueue_regrade]; exact fun _ hx => hx

/-- A new score asks of a client what its state says of the score. -/
theorem InStanding.rescore {l : Limits} {r : ClientRecord} {x : Standing} (h : InStanding l r x) {n : Nat} (top : n ≤ 255)
    (active : r.state = .active → n < 255) (isolated : x.score = 255 → n = 255) (unconfigured : r.state ≠ .unconfigured) :
    InStanding l r { score := n, grade := l.grades n } :=
  ⟨rfl, top, active, fun k => isolated (h.isolated k), fun k => absurd k unconfigured, h.apart, h.pending, h.reset⟩

theorem ControlLaw.rescore (h : ControlLaw s) (zero : c ≠ 0) (n : Nat) : ControlLaw ((s.setScore c n).regrade c) :=
  h.of_same (State.client_regrade _ c 0) (by rw [s.standing_setScore_regrade c 0 n zero, if_neg zero.symm])

theorem ClientRecord.isolable_iff (r : ClientRecord) :
    r.isolable = true ↔ (r.state = .active ∨ r.state = .disabled) ∧ r.teardown = none := by
  simp [ClientRecord.isolable]

/-- A charge that reaches 255 isolates (R100, R106, R107). -/
theorem Sound.applyCharge (h : Sound es [] s) (configured : (s.client c).state ≠ .unconfigured) (n : Nat) :
    Sound es [] (s.applyCharge c n) := by
  unfold State.applyCharge
  split
  · exact h
  · rename_i zero
    have own := h.standing.member c
    have client := State.client_regrade (s.setScore c (min Config.topScore ((s.standing c).score + n))) c
    have graded := h.firm.rescore c (min Config.topScore ((s.standing c).score + n))
    have top : min Config.topScore ((s.standing c).score + n) ≤ 255 := Nat.min_le_left _ _
    dsimp only
    split
    · rename_i rises
      obtain ⟨below, reaches, isolable⟩ := rises
      rw [client] at isolable
      obtain ⟨state, noTeardown⟩ := (ClientRecord.isolable_iff _).mp isolable
      have live : (s.client c).state ≠ .halted := by rcases state with e | e <;> (rw [show (s.client c).state = _ from e]; decide)
      have noRecovery : (s.client c).recoveryPending = false := by
        by_contra hp
        have := own.isolated (.inr (by simpa using hp))
        exact absurd below (by rw [this]; decide)
      have isolated : Firm es [] (((s.setScore c (min Config.topScore ((s.standing c).score + n))).regrade c).isolate c none) := by
        refine graded.setClient c _ (graded.owing.sameAnswers ?_ ?_) (by simp) (fun _ => .inl ⟨rfl, ?_⟩)
          (fun d => by simp [ClientRecord.dormant] at d)
        · intro m; rw [ClientRecord.muted_iff] at m; simp at m
        · have : (s.client c).teardown = none := noTeardown
          simp [ClientRecord.owed, client, this]
        · rw [client]; exact live
      refine isolated.sound (h.standing.change c (State.limits_regrade _ c) (fun d hd => ?_) (fun d hd => ?_) ?_ ?_ ?_)
      · exact (State.client_setClient_of_ne _ _ _ _ hd).trans (client d)
      · exact (State.standing_setScore_regrade s c d _ zero).trans (if_neg hd)
      · rw [State.isolate, State.client_setClient_self, State.standing_setClient, State.standing_setScore_regrade _ _ _ _ zero, if_pos rfl, client]
        exact ⟨rfl, top, by simp, fun _ => reaches, by simp, by simp, by simp [noRecovery], by simp⟩
      · rw [State.isolate, State.client_setClient_self]; simp
      · exact fun x hx => State.standingQueue_regrade (s.setScore c _) c ▸ hx
    · rename_i stays
      refine graded.sound (h.standing.rescore zero (own.rescore top (fun active => ?_) (fun full => ?_) configured))
      · refine lt_of_le_of_ne top fun full => stays ⟨own.active active, full, ?_⟩
        rw [client]
        exact (ClientRecord.isolable_iff _).mpr ⟨.inl active, own.apart (by simp [active])⟩
      · have : Config.topScore = 255 := rfl
        omega

theorem ControlLaw.applyCharge (h : ControlLaw s) (c : ClientId) (n : Nat) : ControlLaw (s.applyCharge c n) := by
  unfold State.applyCharge
  split
  · exact h
  · rename_i zero
    dsimp only
    split
    · exact (h.rescore zero _).setClient zero _
    · exact h.rescore zero _

theorem Sound.erase (h : Sound es ds s) (x : StandingItem) :
    Sound es ds { s with standingQueue := s.standingQueue.erase x } := by
  refine h.congr (.of_eqs rfl rfl rfl rfl rfl rfl) ⟨rfl, rfl, rfl, rfl, rfl, le_rfl⟩ (h.owing.of_eqs rfl rfl rfl (fun _ => rfl)) h.awake
    (fun _ k => k) (fun y hy => .inl (List.mem_of_mem_erase hy))

theorem Ruled.takeCharge {n : Nat} (h : Ruled A es [] s) (e : takeCharge c n s = some t) : Ruled A es [] t := by
  unfold Machine.takeCharge at e
  split at e <;> cases e
  rename_i queued
  have erased : ControlLaw { s with standingQueue := s.standingQueue.erase (.charge c n) } := h.control.of_same rfl rfl
  refine ⟨erased.applyCharge c n, fun a => ((h.sound a).erase _).applyCharge ?_ n⟩
  exact (h.sound a).standing.charged _ (by simpa using queued) c n rfl

/-- A credit lowers a score of 1 to 254 (R101). -/
theorem Ruled.takeCredit (h : Ruled A es [] s) (e : takeCredit c s = some t) : Ruled A es [] t := by
  unfold Machine.takeCredit at e
  split at e <;> cases e
  have erased : Ruled A es [] { s with standingQueue := s.standingQueue.erase (.credit c) } :=
    h.act rfl rfl (fun a => a.erase _)
  unfold State.applyCredit
  dsimp only
  split
  · exact erased
  · rename_i zero
    split
    · exact erased
    · rename_i falls
      refine ⟨erased.control.rescore zero _, fun a => ?_⟩
      have b := erased.sound a
      have own := b.standing.member c
      refine (b.firm.rescore c _).sound (b.standing.rescore zero (own.rescore ?_ ?_ ?_ ?_))
      all_goals
        have top : Config.topScore = 255 := rfl
        have range := own.top
        simp only [State.standing] at falls range ⊢
      · omega
      · intro; omega
      · intro full; rw [full] at falls; simp [top] at falls
      · intro idle
        have := own.unconfigured idle
        simp only [State.standing] at this
        omega

/-- Every client is graded under new thresholds (R104). -/
theorem StandingLaw.regradeList (cs : List ClientId) : ∀ s : State,
    (1 ≤ s.limits.warning ∧ s.limits.warning < s.limits.restricted ∧ s.limits.restricted ≤ 254) →
    (∀ c, InStanding s.limits (s.client c) { s.standing c with grade := s.limits.grades (s.standing c).score }) →
    (∀ x ∈ s.standingQueue, ∀ c n, x = .charge c n → (s.client c).state ≠ .unconfigured) →
    (∀ c, c ∉ cs ∨ c = 0 ∨ (s.client c).state = .unconfigured → (s.standing c).grade = s.limits.grades (s.standing c).score) →
    StandingLaw (cs.foldl (fun t c => if (t.client c).state = .unconfigured then t else t.regrade c) s) := by
  induction cs with
  | nil =>
    intro s limits members charged graded
    refine .of_members limits (fun c => ?_) charged
    have := members c
    rw [← graded c (.inl (by simp))] at this
    exact this
  | cons b cs ih =>
    intro s limits members charged graded
    simp only [List.foldl_cons]
    split
    · rename_i idle
      refine ih s limits members charged fun c hc => graded c ?_
      rcases hc with hc | hc
      · by_cases e : c = b
        · exact .inr (.inr (e ▸ idle))
        · exact .inl (by simp [e, hc])
      · exact .inr hc
    · have client := State.client_regrade s b
      have hl := s.limits_regrade b
      refine ih _ ?_ (fun c => ?_) ?_ (fun c hc => ?_)
      · rw [hl]; exact limits
      · rw [client, hl, State.standing_regrade]
        split
        · rename_i e; rw [e.1]; exact members b
        · exact members c
      · simp only [client, State.standingQueue_regrade]; exact charged
      · rw [hl, State.standing_regrade]
        rw [client] at hc
        split
        · rfl
        · rename_i other
          refine graded c ?_
          rcases hc with hc | hc
          · by_cases e : c = b
            · subst e
              by_contra ne
              exact other ⟨rfl, fun z => ne (.inr (.inl z))⟩
            · exact .inl (by simp [e, hc])
          · exact .inr hc

theorem Firm.regradeList (cs : List ClientId) : ∀ s : State, Firm es ds s →
    Firm es ds (cs.foldl (fun t c => if (t.client c).state = .unconfigured then t else t.regrade c) s) := by
  induction cs with
  | nil => exact fun s h => h
  | cons b cs ih =>
    intro s h
    refine ih _ ?_
    dsimp only
    split
    · exact h
    · exact h.regrade b

theorem ControlLaw.regradeList (cs : List ClientId) : ∀ s : State, ControlLaw s →
    ControlLaw (cs.foldl (fun t c => if (t.client c).state = .unconfigured then t else t.regrade c) s) := by
  induction cs with
  | nil => exact fun s h => h
  | cons b cs ih =>
    intro s h
    refine ih _ ?_
    dsimp only
    split
    · exact h
    · refine h.of_same (s.client_regrade b 0) ?_
      rw [State.standing_regrade, if_neg (fun z => z.2 z.1.symm)]

theorem Firm.setLimits (h : Firm es ds s) (l : Limits) : Firm es ds { s with limits := l } :=
  h.sameClients (.of_eqs rfl rfl rfl rfl rfl rfl) (fun _ => rfl) (h.owing.of_eqs rfl rfl rfl (fun _ => rfl)) h.awake (fun _ _ k => k)

theorem ControlLaw.regradeAll (h : ControlLaw s) : ControlLaw s.regradeAll := by
  unfold State.regradeAll; exact .regradeList _ s h

theorem Firm.regradeAll (h : Firm es ds s) : Firm es ds s.regradeAll := by
  unfold State.regradeAll; exact .regradeList _ s h

theorem Ruled.regradeAll (h : Ruled A es ds s) (l : Limits) (valid : 1 ≤ l.warning ∧ l.warning < l.restricted ∧ l.restricted ≤ 254) :
    Ruled A es ds (State.regradeAll { s with limits := l }) := by
  refine ⟨.regradeAll (h.control.of_same rfl rfl), fun a => ?_⟩
  have b := h.sound a
  refine (b.firm.setLimits l).regradeAll.sound ?_
  unfold State.regradeAll
  refine .regradeList _ _ valid (fun c => ?_) b.standing.charged (fun c hc => ?_)
  · have own := b.standing.member c
    exact ⟨rfl, own.top, own.active, own.isolated, own.unconfigured, own.apart, own.pending, own.reset⟩
  · have zero : (s.standing c).score = 0 := by
      rcases hc with hc | rfl | hc
      · exact absurd (mem_allClients c) hc
      · rw [h.control.standing]; rfl
      · exact b.standing.unconfigured c hc
    have good : (s.standing c).grade = .good := by rw [b.standing.grade, zero, b.standing.grades_zero]
    change (s.standing c).grade = l.grades (s.standing c).score
    rw [good, zero]
    exact (if_pos valid.1).symm

theorem Ruled.limitsTaken (h : Ruled A es [k.client] s) (f : Decode.LimitFields) : Ruled A es [] (limitsTaken k f s) := by
  unfold Machine.limitsTaken
  split
  · rename_i valid
    refine Ruled.answer (h.regradeAll ⟨f.warning, f.restricted, f.recovery, f.leaseCap, f.waitCap⟩ valid) _
  · exact h.answer _

theorem Ruled.setStandingTaken (h : Ruled A es [k.client] s) {f : Decode.StandingFields} (range : f.score ≤ 255) :
    Ruled A es [] (setStandingTaken k f s) := by
  refine Ruled.ite (fun _ => h.answer _) (fun zero => Ruled.ite (fun _ => h.answer _) (fun busy => Ruled.ite (fun _ => h.answer _) (fun other => ?_)))
  have noTeardown : (s.client f.target).teardown = none := by simpa using busy
  have state : (s.client f.target).state = .disabled := by simpa using other
  generalize hu : ((s.setScore f.target f.score).setRecovery f.target 0).setClient f.target { s.client f.target with recoveryPending := false } = u
  have client : ∀ d, u.client d = if d = f.target then { s.client f.target with recoveryPending := false } else s.client d := by
    rw [← hu]; exact fun d => State.client_setClient _ _ d _
  have standing : ∀ d, u.standing d = if d = f.target then { s.standing f.target with score := f.score } else s.standing d := by
    rw [← hu]; exact fun d => s.standing_setStanding _ d _
  have limits : u.limits = s.limits := by rw [← hu]; rfl
  refine Ruled.answer (k := k) (ds := []) ⟨h.control.of_same ?_ ?_, fun a => ?_⟩ _
  · rw [State.client_regrade, client, if_neg (Ne.symm zero)]
  · rw [State.standing_regrade, if_neg (fun z => z.2 z.1.symm), standing, if_neg (Ne.symm zero)]
  · have b := h.sound a
    have own := b.standing.member f.target
    have changed : Firm es [k.client] u := by
      rw [← hu]
      have scored : Firm es [k.client] ((s.setScore f.target f.score).setRecovery f.target 0) :=
        (b.firm.setStanding _ _).sameClients (.setRecovery _ _ _) (fun _ => rfl) (b.owing.of_eqs rfl rfl rfl (fun _ => rfl)) b.awake (fun _ _ k => k)
      refine scored.setClient f.target _ (scored.owing.sameAnswers (b.owing.silent f.target) rfl) (fun d hd => ?_) (fun live => .inl ⟨rfl, live⟩)
        (fun d => ?_)
      · have := b.awake d hd
        rw [State.client_setClient]
        split
        · rename_i e; subst e
          simp [ClientRecord.dormant, state]
        · exact this
      · simp [ClientRecord.dormant, state] at d
    refine (changed.regrade f.target).sound (b.standing.change f.target ((State.limits_regrade _ _).trans limits) (fun d hd => ?_)
      (fun d hd => ?_) ?_ ?_ ?_)
    · rw [State.client_regrade, client, if_neg hd]
    · rw [State.standing_regrade, if_neg (fun z => hd z.1), standing, if_neg hd]
    · rw [State.client_regrade, State.standing_regrade, if_pos ⟨rfl, zero⟩, limits, client, standing, if_pos rfl, if_pos rfl]
      exact ⟨rfl, range, by simp [state], by simp [state], by simp [state], fun _ => noTeardown, by simp, by simp⟩
    · rw [State.client_regrade, client, if_pos rfl]; exact id
    · rw [State.standingQueue_regrade, ← hu]; exact fun _ hx => hx

end

end Sys2Proof.Machine
end

section
/-! PROOFS. Recoveries, teardowns, watches and the queues under the laws of the clients. -/

namespace Sys2Proof.Machine

section
variable {A : Prop} {es : List LockEntry} {ds fs : List ClientId} {s t : State} {c : ClientId} {k : Taken}

/-! ## Recoveries -/

theorem Ruled.completeRecovery (h : Ruled A es [] s) (recovering : (s.client c).state = .recovering) :
    Ruled A es [] (s.completeRecovery c) := by
  have zero : c ≠ 0 := h.control.ne_zero (fun e => by rw [e] at recovering; cases recovering)
  unfold State.completeRecovery
  refine Ruled.notify (Ruled.notify (Ruled.forgetClient ⟨?_, fun a => ?_⟩ c) _ _) _ _
  · exact ControlLaw.setClient (ControlLaw.setStanding (s := s.setRecovery c 0) (h.control.of_same rfl rfl) zero _) zero _
  · have b := h.sound a
    have own := b.standing.member c
    have settled := b.standing.recovery_none (c := c) (by simp [recovering]) (by simp [recovering])
    have scored : Firm es [] ((s.setRecovery c 0).setStanding c { score := 0, grade := .good }) :=
      Firm.setStanding (b.firm.sameClients (.setRecovery _ _ _) (fun _ => rfl) (b.owing.of_eqs rfl rfl rfl (fun _ => rfl)) b.awake (fun _ _ k => k)) _ _
    have active : Firm es [] (((s.setRecovery c 0).setStanding c { score := 0, grade := .good }).setClient c { s.client c with state := .active }) := by
      refine scored.setClient c _ (scored.owing.sameAnswers (fun m => ?_) rfl) (by simp) (fun _ => .inl ⟨rfl, ?_⟩) (fun d => ?_)
      · exact ClientRecord.not_muted m (by simp) (own.apart (by simp [recovering]))
      · change (s.client c).state ≠ .halted; simp [recovering]
      · simp [ClientRecord.dormant, settled] at d
    refine active.sound (b.standing.change c rfl (fun d hd => State.client_setClient_of_ne _ _ _ _ hd)
      (fun d hd => State.standing_setStanding_of_ne _ _ _ _ hd) ?_ ?_ (fun _ hx => hx))
    · rw [State.client_setClient_self, State.standing_setClient, State.standing_setStanding_self]
      exact ⟨b.standing.grades_zero.symm, by simp, by simp, by simp [settled], by simp,
        fun _ => own.apart (by simp [recovering]), by simp [settled], fun _ _ _ => settled⟩
    · rw [State.client_setClient_self]; simp

theorem Ruled.visitedClient (h : Ruled A es ds s) (c : ClientId) : Ruled A es ds (s.visitedClient c) :=
  h.aside (.visitedClient s c) rfl rfl rfl rfl rfl rfl

theorem Ruled.visitRecovering (h : Ruled A es [] s) (e : visitRecovering c s = some t) : Ruled A es [] t := by
  unfold Machine.visitRecovering at e
  split at e
  · rename_i due
    simp only [State.recoveryDue, Bool.and_eq_true, beq_iff_eq] at due
    split at e <;> cases e
    · exact (h.visitedClient c).completeRecovery due.1
    · exact (h.visitedClient c).setRecovery c _
  · cases e

theorem Ruled.completeVisit (h : Ruled A es [] s) (e : completeVisit c s = some t) : Ruled A es [] t := by
  unfold Machine.completeVisit at e
  split at e <;> cases e
  rename_i due
  simp only [State.recoveryDue, Bool.and_eq_true, beq_iff_eq] at due
  exact (h.visitedClient c).completeRecovery due.1.1

/-! ## The end of a teardown -/

theorem State.watchCount_zero (h : s.watchCount c = 0) : ∀ w ∈ s.watches, w.owner ≠ c := by
  simpa [State.watchCount, List.filter_eq_nil_iff] using h

/-- The teardown is over: only the records of the queue may be left, and they are not written (R142). -/
theorem Ruled.endTeardown (h : Ruled A es [] s) {x : Teardown} (hx : (s.client c).teardown = some x) (bare : s.recordless c) :
    Ruled A es (List.replicate x.waiting.toList.length 0) (s.setClient c { s.client c with teardown := none }) := by
  have zero : c ≠ 0 := h.control.ne_zero (fun e => by rw [e] at hx; cases hx)
  refine h.setClient zero fun a => ?_
  have own := a.standing.member c
  have owing := a.owing.dueAnswers (c := c) (r := { s.client c with teardown := none }) x.waiting.toList.length (fun m => ?_) ?_
  rw [List.append_nil] at owing
  refine a.setClient c _ owing (fun d hd => ?_) (fun live => .inl ⟨rfl, live⟩) (fun _ => .inr bare)
    ⟨own.grade, own.top, own.active, own.isolated, own.unconfigured, fun _ => rfl, own.pending, by simp⟩ id
  · obtain rfl := (List.mem_replicate.mp hd).2
    rw [State.client_setClient_of_ne _ _ _ _ zero.symm]
    exact h.control.awake
  · refine a.owing.silent c ((ClientRecord.muted_iff _).mpr (.inl ?_))
    simpa [ClientRecord.muted_iff] using m
  · simp only [ClientRecord.owed, hx]
    cases hw : x.waiting <;> simp [hw, Nat.add_comm]

/-- The clearing steps of a reset (R137). -/
theorem Ruled.clearForReset (h : Ruled A es [] s) {x : Teardown} (hx : (s.client c).teardown = some x) (cause : x.cause = .reset)
    (bare : s.recordless c) (idle : (s.ring c).writing = none) :
    Ruled A es (List.replicate x.waiting.toList.length 0) (s.clearForReset c) := by
  have zero : c ≠ 0 := h.control.ne_zero (fun e => by rw [e] at hx; cases hx)
  unfold State.clearForReset
  refine ⟨?_, fun a => ?_⟩
  · have cleared : ControlLaw ((s.setAccount c { s.account c with expired := [] }).setStanding c Standing.reset) :=
      ControlLaw.setStanding (s := s.setAccount c _) (h.control.of_same rfl rfl) zero _
    refine ControlLaw.setClient ?_ zero _
    exact cleared.of_same rfl rfl
  · have b := h.sound a
    have own := b.standing.member c
    have silent : (s.ring c).waiting = [] := b.owing.rested c idle
    have handed : (s.ring c).handed = [] := by simp [RingContext.handed, idle, silent]
    obtain ⟨noHold, noWait, noWatch, noFetch⟩ := bare
    have unreserved : (s.ring c).reserved = 0 := by
      have := b.owing.reserved c
      rw [State.reservedFor_eq, State.reservedHere, handed, noFetch, noWait, if_neg zero] at this
      simpa using this
    have settled : (s.client c).recoveryPending = false := own.reset x hx cause
    have forgot : Firm es [] (s.setAccount c { s.account c with expired := [] }) :=
      b.firm.sameClients (.setAccount s c _ rfl rfl) (fun _ => rfl)
        (b.owing.setWaits c _ (fun _ _ => rfl) rfl) b.awake (fun _ _ k => k)
    have graded := forgot.setStanding c Standing.reset
    have emptied := graded.sameClients (t := ((s.setAccount c { s.account c with expired := [] }).setStanding c Standing.reset).setRing c
        (RingContext.reset (s.ring c).place)) (.setRing _ _ _) (fun _ => rfl)
      (graded.owing.setRing c _ (by simp [RingContext.Roomy, RingContext.reset]) (fun _ => rfl) (fun _ => rfl) (fun _ _ => rfl) ?_)
      (by simp) (fun b _ hb => ?_)
    · have owing := emptied.owing.dueAnswers (c := c) (r := { s.client c with state := .disabled, teardown := none })
        x.waiting.toList.length (fun m => ClientRecord.not_muted m (by simp) rfl) ?_
      · rw [List.append_nil] at owing
        refine Firm.sound (emptied.setClient c _ owing (fun d hd => ?_) (fun _ => .inr ?_) (fun d => ?_)) (b.standing.change c rfl
          (fun d hd => State.client_setClient_of_ne _ _ _ _ hd) (fun d hd => State.standing_setStanding_of_ne _ _ _ _ hd) ?_ ?_ (fun _ hx => hx))
        · obtain rfl := (List.mem_replicate.mp hd).2
          rw [State.client_setClient_of_ne _ _ _ _ zero.symm]
          exact h.control.awake
        · refine ⟨?_, ?_, noWatch, ?_⟩
          · simp [noHold]
          · simp [noWait]
          · rw [State.ring_setRing_self]; rfl
        · simp [ClientRecord.dormant, settled] at d
        · rw [State.client_setClient_self, State.standing_setClient, State.standing_setRing, State.standing_setStanding_self]
          exact ⟨b.standing.grades_zero.symm, by simp [Standing.reset], by simp, by simp [settled], by simp, by simp, by simp [settled], by simp⟩
        · rw [State.client_setClient_self]; simp
      · simp only [ClientRecord.owed, State.client_setRing, State.client_setStanding, State.client_setAccount, hx]
        cases hw : x.waiting <;> simp [hw, Nat.add_comm]
    · change 0 + ((s.ring c).handed.length + (if (s.ring c).fetch = .idle then 0 else 1) + 0) = (s.ring c).reserved + 0
      rw [handed, noFetch, unreserved]; rfl
    · rw [State.ring_setRing]
      split
      · rfl
      · exact hb

theorem Ruled.endTeardownStep (h : Ruled A es [] s) (e : endTeardownStep c s = some t) : Ruled A es [] t := by
  unfold Machine.endTeardownStep at e
  split at e
  · cases e
  · rename_i x hx
    split at e <;> cases e
    rename_i gone
    simp only [State.tornDown, Bool.and_eq_true, beq_iff_eq, List.isEmpty_iff, Option.isNone_iff_eq_none] at gone
    obtain ⟨⟨⟨⟨⟨-, noWait⟩, noHold⟩, noWatch⟩, noFetch⟩, idle⟩ := gone
    have bare : s.recordless c := ⟨noHold, noWait, State.watchCount_zero noWatch, noFetch⟩
    have ended := h.endTeardown hx bare
    unfold State.finishTeardown
    cases cause : x.cause with
    | reset => exact Ruled.answerWaiting x.waiting (by rw [List.append_nil]; exact h.clearForReset hx cause bare idle)
    | halt => exact Ruled.answerWaiting x.waiting (by rw [List.append_nil]; exact ended)
    | isolation =>
      refine Ruled.answerWaiting x.waiting ?_
      rw [List.append_nil]
      exact Ruled.ite (fun _ => ended.notify 0 _) (fun _ => ended)

end

end Sys2Proof.Machine
end

section
/-! PROOFS. Watches, queues and faults under the laws of the clients. -/

namespace Sys2Proof.Machine

section
variable {A : Prop} {es : List LockEntry} {ds fs : List ClientId} {s t : State} {c : ClientId} {k : Taken}

/-! ## Watches -/

/-- The watch table changes, and no dormant client gets a watch (R132). -/
theorem Sound.setWatches (h : Sound es ds s) {ws : List Watch} (hw : ∀ w ∈ ws, w ∈ s.watches ∨ ¬ (s.client w.owner).dormant) :
    Sound es ds { s with watches := ws } := by
  refine ⟨h.books.congr (fun _ => rfl) (fun _ => rfl) le_rfl, ⟨h.quotas.holds, h.quotas.waits⟩,
    h.owing.of_eqs rfl rfl rfl (fun _ => rfl), ⟨fun c k l => ?_⟩, ?_, h.awake⟩
  · obtain ⟨noHold, noWait, noWatch, noFetch⟩ := h.idle.idle c k l
    refine ⟨noHold, noWait, fun w hm e => ?_, noFetch⟩
    rcases hw w hm with hm | awake
    · exact noWatch w hm e
    · exact awake (e ▸ ⟨k, l⟩)
  · exact .of_members h.standing.limits h.standing.member h.standing.charged

theorem Ruled.setWatches (h : Ruled A es ds s) {ws : List Watch}
    (hw : Sound es ds s → ∀ w ∈ ws, w ∈ s.watches ∨ ¬ (s.client w.owner).dormant) : Ruled A es ds { s with watches := ws } :=
  h.act rfl rfl (fun a => a.setWatches (hw a))

theorem Ruled.watchTaken (h : Ruled A es [k.client] s) (f : Decode.WatchFields) : Ruled A es [] (watchTaken k f s) := by
  refine Ruled.ite (fun _ => h.answer _) (fun _ => Ruled.ite (fun _ => h.answer _) (fun _ => Ruled.ite (fun _ => h.answer _) (fun _ => ?_)))
  refine Ruled.answer (h.setWatches fun a w hw => ?_) _
  rcases List.mem_append.mp hw with hw | hw
  · exact .inl hw
  · rw [List.mem_singleton.mp hw]
    exact .inr (a.awake k.client List.mem_cons_self)

theorem Ruled.unwatchTaken (h : Ruled A es [k.client] s) (x : Tag) : Ruled A es [] (unwatchTaken k x s) :=
  Ruled.ite (fun _ => Ruled.answer (h.setWatches fun _ _ hw => .inl (List.mem_of_mem_filter hw)) _) (fun _ => h.answer _)

theorem Ruled.removeWatchesStep (h : Ruled A es [] s) (e : removeWatchesStep c s = some t) : Ruled A es [] t := by
  unfold Machine.removeWatchesStep at e
  split at e <;> cases e
  exact h.setWatches fun _ _ hw => .inl (List.mem_of_mem_filter hw)

theorem Ruled.matchAll (ev : WatchEvent) (ws : List Watch) : ∀ s : State, Ruled A es ds s → Ruled A es ds (s.matchAll ev ws) := by
  induction ws with
  | nil => exact fun s h => h
  | cons w ws ih =>
    intro s h
    refine ih (if s.watchMatches ev w then s.notify w.owner (w.notice ev) else s) ?_
    exact Ruled.ite (fun _ => h.notify _ _) (fun _ => h)

theorem Ruled.matchNext {name : Name} (h : Ruled A es [] s) (e : matchNext name s = some t) : Ruled A es [] t := by
  unfold Machine.matchNext at e
  split at e <;> cases e
  refine Ruled.matchAll _ _ _ ?_
  exact h.aside (.of_eqs rfl rfl rfl rfl rfl rfl) rfl rfl rfl rfl rfl rfl

/-! ## The queues -/

/-- One ring context changes. -/
theorem Sound.setRing (h : Sound es ds s) (r : RingContext) (owing : Owing fs (s.setRing c r)) (awake : ∀ d ∈ fs, ¬ (s.client d).dormant)
    (fetch : (s.client c).dormant → (s.ring c).fetch = .idle → r.fetch = .idle) : Sound es fs (s.setRing c r) := by
  refine (h.firm.sameClients (.setRing s c r) (fun _ => rfl) owing awake (fun d k l => ?_)).sound
    (.of_members h.standing.limits h.standing.member h.standing.charged)
  rw [State.ring_setRing]
  split
  · rename_i e; subst e; exact fetch k l
  · exact l

theorem Ruled.setRing (h : Ruled A es ds s) (r : RingContext) (sound : Sound es ds s → Sound es fs (s.setRing c r)) :
    Ruled A es fs (s.setRing c r) := h.act rfl rfl sound

theorem Ruled.drain (h : Ruled A es ds s) (c : ClientId) : Ruled A es ds (s.drain c) :=
  h.rings (.of_ringsOnly (.drain s c))
    (fun a => a.of_ringsOnly (.drain s c) (a.owing.drain c) a.awake (fun b hb => (Sound.fetch_drain s c b).trans hb))

theorem Ruled.submitPost {index : BitVec 12} (h : Ruled A es [] s) (e : submitPost c index s = some t) : Ruled A es [] t := by
  unfold Machine.submitPost at e
  split at e <;> cases e
  exact h.setRing _ fun a => a.setRing _
    (a.owing.setRing c _ (a.owing.room c) (a.owing.rested c) (a.owing.silent c) (fun _ _ => rfl) rfl) a.awake (fun _ k => k)

theorem Ruled.armPost (h : Ruled A es [] s) (e : armPost c s = some t) : Ruled A es [] t := by
  cases e
  exact h.setRing _ fun a => a.setRing _
    (a.owing.setRing c _ (a.owing.room c) (a.owing.rested c) (a.owing.silent c) (fun _ _ => rfl) rfl) a.awake (fun _ k => k)

/-- A charge of a configured client (R100). -/
theorem Sound.chargeConfigured (h : Sound es ds s) (configured : (s.client c).state ≠ .unconfigured) (n : Nat) :
    Sound es ds (s.handCharge c n) := by
  refine h.congr (.handCharge s c n) (.handCharge s c n) (h.owing.of_eqs rfl rfl rfl (fun _ => rfl)) h.awake (fun _ hb => hb) (fun x hx => ?_)
  rcases List.mem_append.mp hx with hx | hx
  · exact .inl hx
  · right
    rintro b m rfl
    cases List.mem_singleton.mp hx
    exact configured

theorem Ruled.consumedPost {index : BitVec 12} (h : Ruled A es [] s) (configured : (s.client c).state ≠ .unconfigured)
    (e : consumedPost c index s = some t) : Ruled A es [] t := by
  simp only [Machine.consumedPost] at e
  split at e <;> cases e
  · refine Ruled.drain ?_ c
    refine h.setRing _ fun a => a.setRing _ (a.owing.setRing c _ ?_ (a.owing.rested c) (a.owing.silent c)
      (fun _ _ => rfl) rfl) a.awake (fun _ k => k)
    exact le_trans (Nat.add_le_add_right (Nat.sub_le _ _) _) (a.owing.room c)
  · exact h.act rfl rfl (fun a => a.chargeConfigured configured _)

theorem Ruled.postTaken {f : State → Option State} (h : (s.client c).state ≠ .unconfigured → f s = some t → Ruled A es [] t)
    (e : postTaken c f s = some t) : Ruled A es [] t := by
  unfold Machine.postTaken at e
  split at e
  · cases e
  · exact h ‹_› e

theorem State.eligible_iff (s : State) (c : ClientId) : s.eligible c = true ↔
    (s.client c).state = .active ∧ (s.client c).teardown = none ∧ 1 ≤ (s.ring c).work ∧ 1 ≤ (s.ring c).free ∧ (s.ring c).fetch = .idle := by
  simp [State.eligible, and_assoc]

theorem State.arbiter_eligible (h : s.arbiter = some c) : s.eligible c = true := by
  unfold State.arbiter at h
  split at h
  · cases h; assumption
  · exact List.find?_some h

/-- A fetch reserves the slot of its response (R115, R121). -/
theorem Ruled.beginFetch (h : Ruled A es [] s) (eligible : s.eligible c = true) : Ruled A es [] (s.beginFetch c) := by
  obtain ⟨active, noTeardown, -, free, idle⟩ := (s.eligible_iff c).mp eligible
  have fetched := h.setRing (c := c) (fs := []) { s.ring c with reserved := (s.ring c).reserved + 1, fetch := .fetching (s.ring c).sqConsumer false } fun a => by
    refine a.setRing _ (a.owing.setRing c _ ?_ (a.owing.rested c) (a.owing.silent c) (fun _ _ => rfl) ?_) a.awake (fun d _ => ?_)
    · have : 1 ≤ (s.ring c).place.cqSize - (s.ring c).occupied - (s.ring c).reserved := free
      unfold RingContext.Roomy; dsimp only; omega
    · simp only [idle, RingContext.handed, reduceCtorEq, if_false, if_true]; omega
    · have settled := a.standing.recovery_none (c := c) (by simp [active]) (by simp [active])
      simp [ClientRecord.dormant, active, settled] at d
  exact fetched.aside (.of_ringsOnly (.put _ _)) rfl rfl rfl rfl rfl rfl

theorem Ruled.fetchNext (h : Ruled A es [] s) (e : fetchNext s = some t) : Ruled A es [] t := by
  unfold Machine.fetchNext at e
  split at e
  · split at e <;> cases e
    rename_i b hb
    have turned : Ruled A es [] { s with roundRobin := if b = 0 then s.roundRobin else b.val } :=
      h.aside (.of_eqs rfl rfl rfl rfl rfl rfl) rfl rfl rfl rfl rfl rfl
    exact turned.beginFetch (show s.eligible b = true from State.arbiter_eligible hb)
  · cases e

/-- A record that is not to be answered gives its slot back (R121, R124). -/
theorem Ruled.settleRead (h : Ruled A es ds s) (busy : (s.ring c).fetch ≠ .idle) : Ruled A es ds (s.settleRead c) :=
  h.rings (.of_ringsOnly (.settleRead s c)) (fun a => (a.idleFetch busy).releaseReservation)

theorem Ruled.returnRead {bytes : Record} (h : Ruled A es [] s) (e : returnRead c bytes s = some t) : Ruled A es [] t := by
  unfold Machine.returnRead at e
  split at e
  · rename_i index discard busy
    split at e <;> cases e
    · exact h.setRing _ fun a => a.setRing _ (a.owing.setRing c _ (a.owing.room c) (a.owing.rested c) (a.owing.silent c)
        (fun _ _ => rfl) (by simp [RingContext.handed, busy])) a.awake (fun _ k => by rw [busy] at k; cases k)
    · exact h.settleRead (by rw [busy]; simp)
  · cases e
  · cases e

/-! ### The end of a write -/

/-- The state differs in what the reservations depend on by one ring context. -/
theorem Owing.of_ring {r : RingContext} (owing : Owing fs (s.setRing c r)) (rings : t.ring c = r)
    (apart : s.RingsOnly t) (others : ∀ d, d ≠ c → t.ring d = s.ring d) : Owing fs t := by
  have same : t.rings = (s.setRing c r).rings := by
    refine Vector.ext fun i hi => ?_
    have : t.ring ⟨i, hi⟩ = (s.setRing c r).ring ⟨i, hi⟩ := by
      rw [State.ring_setRing]
      split
      · rename_i e; rw [e]; exact rings
      · rename_i e; exact others _ e
    exact this
  exact owing.of_eqs (by rw [apart]; rfl) same (by rw [apart]; rfl) (fun b => by rw [apart]; rfl)

/-- The context as the end of its write leaves it (R118, R125). -/
def RingContext.ended (r : RingContext) : RingContext := { r.wrote with armed := false }

/-- The context with the oldest record that waits, if any, in flight (R125). -/
def RingContext.begun (r : RingContext) : RingContext :=
  match r.waiting with
  | [] => r
  | rec :: ws => { r with writing := some (r.writeOf rec), waiting := ws, lost := 0 }

theorem State.ring_interruptIfArmed (s : State) (c d : ClientId) :
    (s.interruptIfArmed c).ring d = if d = c then { s.ring c with armed := false } else s.ring d := by
  unfold State.interruptIfArmed
  split
  · exact s.ring_setRing c d _
  · rename_i unarmed
    split
    · rename_i e; subst e
      have : (s.ring d).armed = false := by simpa using unarmed
      rw [← this]
    · rfl

theorem State.ring_startWrite (s : State) (c d : ClientId) (idle : (s.ring c).writing = none) :
    (s.startWrite c).ring d = if d = c then (s.ring c).begun else s.ring d := by
  unfold RingContext.begun
  cases hq : (s.ring c).waiting with
  | nil =>
    rw [State.startWrite_of_empty s c hq]
    split
    · rename_i e; rw [e]
    · rfl
  | cons rec ws =>
    rw [State.startWrite_of_waiting s c rec ws idle hq]
    exact s.ring_withRing c d _

theorem RingContext.begun_grown (r : RingContext) (idle : r.writing = none) : Grown 0 r r.begun ∧ r.begun.Rested := by
  unfold begun
  cases hq : r.waiting with
  | nil => exact ⟨.of_eqs rfl rfl rfl rfl rfl rfl, fun _ => hq⟩
  | cons rec ws =>
    refine ⟨⟨rfl, rfl, ?_, id, fun _ h => by cases h⟩, fun h => by cases h⟩
    simp [handed, idle, hq]

theorem Sound.endWrite (h : Sound es [] s) (e : endWrite c s = some t) : Sound es [] t := by
  unfold Machine.endWrite at e
  split at e
  swap
  · cases e
  rename_i writing
  obtain ⟨w, hw⟩ := Option.isSome_iff_exists.mp writing
  have apart := State.RingsOnly.endWrite (show Machine.endWrite c s = some t by unfold Machine.endWrite; rw [if_pos writing]; exact e)
  have ended : ∀ d, (((s.setRing c (s.ring c).wrote).interruptIfArmed c).ring d) = if d = c then (s.ring c).ended else s.ring d := by
    intro d
    rw [State.ring_interruptIfArmed, State.ring_setRing_self]
    split
    · rfl
    · exact State.ring_setRing_of_ne _ _ _ _ ‹_›
  have handed : (s.ring c).handed.length = (s.ring c).waiting.length + 1 := by simp [RingContext.handed, hw, Nat.add_comm]
  have reserved : (s.ring c).handed.length ≤ (s.ring c).reserved := by
    rw [h.owing.reserved c, State.reservedFor_eq, State.reservedHere]; omega
  have room : (s.ring c).Roomy := h.owing.room c
  have roomy : (s.ring c).ended.Roomy := by
    unfold RingContext.Roomy RingContext.ended RingContext.wrote at *; dsimp only; omega
  have left : (s.ring c).ended.handed.length + 1 = (s.ring c).handed.length := by
    rw [handed]; simp [RingContext.ended, RingContext.wrote, RingContext.handed]
  have balance : ∀ r : RingContext, RingContext.Grown 0 (s.ring c).ended r →
      r.reserved + ((s.ring c).handed.length + (if (s.ring c).fetch = .idle then 0 else 1) + ([] : List ClientId).count c) =
        (s.ring c).reserved + (r.handed.length + (if r.fetch = .idle then 0 else 1) + ([] : List ClientId).count c) := by
    intro r g
    have hf : r.fetch = (s.ring c).fetch := g.fetch
    have hr : r.reserved = (s.ring c).reserved - 1 := g.reserved
    have hh := g.handed
    rw [hf, hr]
    omega
  have client : ((s.setRing c (s.ring c).wrote).interruptIfArmed c).client c = s.client c := by
    rw [(State.RingsOnly.interruptIfArmed (s.setRing c (s.ring c).wrote) c)]; rfl
  rw [Option.some_inj] at e
  rw [client] at e
  have final : ∀ r : RingContext, t.ring c = r → (∀ d, d ≠ c → t.ring d = s.ring d) → RingContext.Grown 0 (s.ring c).ended r →
      r.Rested → ((s.client c).muted = true → r.waiting = []) → Sound es [] t := by
    intro r ring others g rested silent
    have owing := Owing.of_ring (h.owing.setRing c r (g.roomy roomy) rested silent (fun _ _ => rfl) (balance r g)) ring apart others
    refine h.of_ringsOnly apart owing h.awake (fun b hb => ?_)
    by_cases eq : b = c
    · subst eq; rw [ring, g.fetch]; exact hb
    · rw [others b eq]; exact hb
  split at e
  · rename_i muted
    have silent := h.owing.silent c muted
    subst e
    exact final _ ((ended c).trans (if_pos rfl)) (fun d hd => (ended d).trans (if_neg hd)) (.of_eqs rfl rfl rfl rfl rfl rfl)
      (fun _ => silent) (fun _ => silent)
  · rename_i unmuted
    have idle : (((s.setRing c (s.ring c).wrote).interruptIfArmed c).ring c).writing = none := by rw [ended, if_pos rfl]; rfl
    have begun := fun d => State.ring_startWrite _ c d idle
    obtain ⟨grown, rested⟩ := RingContext.begun_grown (s.ring c).ended rfl
    rw [ended c, if_pos rfl] at begun
    subst e
    exact final _ ((begun c).trans (if_pos rfl)) (fun d hd => ((begun d).trans (if_neg hd)).trans ((ended d).trans (if_neg hd)))
      grown rested (fun m => absurd m unmuted)

theorem Ruled.endWrite (h : Ruled A es [] s) (e : endWrite c s = some t) : Ruled A es [] t :=
  h.rings (.of_ringsOnly (.endWrite e)) (fun a => a.endWrite e)

end

end Sys2Proof.Machine
end

section
/-! PROOFS. Faults, the engine's control and the resets under the laws of the clients; the small laws after every step. -/

namespace Sys2Proof.Machine

section
variable {A : Prop} {es : List LockEntry} {ds fs : List ClientId} {s t : State} {c : ClientId} {k : Taken}

/-! ## Faults on a client ring -/

theorem ClientRecord.not_dormant_of_teardown {r : ClientRecord} {x : Teardown} (h : r.teardown = some x) : ¬ r.dormant :=
  fun d => by rw [d.1] at h; cases h

/-- The record of a client that a fault has halted (R146). -/
def ClientRecord.faulted (r : ClientRecord) : ClientRecord :=
  { r with state := .halted, teardown := some (r.teardown.getD { cause := .halt, waiting := none }) }

theorem State.haltClient_eq (s : State) (c : ClientId) :
    s.haltClient c = ((s.dropWaiting c).setClient c (s.client c).faulted).forgetClient c := by
  unfold State.haltClient ClientRecord.faulted
  dsimp only
  cases (s.client c).teardown <;> rfl

theorem ClientRecord.faulted_owed (r : ClientRecord) : r.faulted.owed = r.owed := by
  unfold ClientRecord.faulted ClientRecord.owed
  cases r.teardown <;> rfl

theorem InStanding.faulted {l : Limits} {r : ClientRecord} {x : Standing} (h : InStanding l r x) : InStanding l r.faulted x := by
  refine ⟨h.grade, h.top, ?_, fun k => h.isolated (.inr (k.resolve_left ?_)), ?_, ?_, ?_, fun y hy cause => ?_⟩
  · simp [ClientRecord.faulted]
  · simp [ClientRecord.faulted]
  · simp [ClientRecord.faulted]
  · simp [ClientRecord.faulted]
  · simp [ClientRecord.faulted]
  · cases hr : r.teardown with
    | none =>
      simp only [ClientRecord.faulted, hr, Option.getD_none, Option.mem_def, Option.some.injEq] at hy
      subst hy; cases cause
    | some z =>
      simp only [ClientRecord.faulted, hr, Option.getD_some, Option.mem_def, Option.some.injEq] at hy
      subst hy; exact h.reset z hr cause

theorem Ruled.haltClient (zero : c ≠ 0) (h : Ruled A es ds (s.dropWaiting c)) : Ruled A es ds (s.haltClient c) := by
  rw [State.haltClient_eq]
  refine Ruled.forgetClient (h.setClient zero fun a => ?_) c
  refine a.setClient c _ (a.owing.sameAnswers (fun _ => State.waiting_dropWaiting s c) (ClientRecord.faulted_owed _))
    (fun d hd => ?_) (fun live => absurd rfl live) (fun d => (ClientRecord.not_dormant_of_teardown rfl d).elim)
    (a.standing.member c).faulted (fun e => by cases e)
  rw [State.client_setClient]
  split
  · exact ClientRecord.not_dormant_of_teardown rfl
  · exact a.awake d hd

theorem Ruled.dropWaiting (h : Ruled A es ds s) (c : ClientId) : Ruled A es ds (s.dropWaiting c) :=
  h.rings (.of_ringsOnly (.dropWaiting s c)) (fun a => a.dropWaiting c)

theorem Ruled.offerFault (h : Ruled A es ds s) (f : FaultInfo) : Ruled A es ds (s.offerFault f) :=
  h.aside (.offerFault s f) rfl rfl rfl rfl rfl rfl

/-- A fault that has been settled: an already HALTED client stays, another is halted (R146). -/
theorem Ruled.clientFault {f : FaultInfo} (zero : f.client ≠ 0) (h : (s.client f.client).state = .halted → Ruled A es ds s)
    (k : Ruled A es ds (s.dropWaiting f.client)) : Ruled A es ds (s.clientFault f) := by
  unfold State.clientFault
  dsimp only
  split
  · exact (h ‹_›).offerFault f
  · exact Ruled.notify (Ruled.haltClient zero (k.offerFault f)) 0 _

theorem Ruled.quiet (h : Ruled A es ds s) : Ruled A es ds s.quiet := h.aside (.of_ringsOnly (.quiet s)) rfl rfl rfl rfl rfl rfl

/-- The context after its failed write: the record in flight is lost, and nothing begins (R145). -/
theorem RingContext.settled {r a : RingContext} {w : WriteInFlight} (writing : r.writing = some w) (waiting : a.writing = some w) {n : Nat}
    (g : Grown n r.freed a) (reserved : r.handed.length ≤ r.reserved) :
    a.reserved - a.waiting.length + r.handed.length = r.reserved := by
  have hr : a.reserved = r.reserved - 1 + n := g.reserved
  have hh := g.handed
  have : a.handed.length = a.waiting.length + 1 := by simp [handed, waiting]
  have : r.freed.handed.length = r.handed.length := rfl
  have : 1 ≤ r.handed.length := by simp [handed, writing]
  omega

/-- The context with no write in flight and none waiting (R127, R145). -/
def RingContext.cut (r : RingContext) : RingContext :=
  { r with writing := none, waiting := [], reserved := r.reserved - r.waiting.length }

theorem State.dropWaiting_of_empty (h : (s.ring c).waiting = []) : s.dropWaiting c = s := by
  have same : ({ s.ring c with waiting := [], reserved := (s.ring c).reserved - (s.ring c).waiting.length } : RingContext) = s.ring c := by
    rw [← h, h, List.length_nil, Nat.sub_zero]
    exact h ▸ rfl
  unfold State.dropWaiting
  rw [same]
  have : s.rings.set c (s.ring c) = s.rings := Vector.set_getElem_self _
  unfold State.setRing
  rw [this]

/-- A failed write is settled, and the records behind it are given up (R127, R145, R146). -/
theorem Sound.settleWrite_dropWaiting (h : Sound es [] s) {w : WriteInFlight} (hw : (s.ring c).writing = some w) :
    Sound es [] ((s.settleWrite c).dropWaiting c) := by
  have reserved : (s.ring c).handed.length ≤ (s.ring c).reserved := by
    rw [h.owing.reserved c, State.reservedFor_eq, State.reservedHere]; omega
  have released : ∃ n, RingContext.Grown n (s.ring c).freed ((s.releaseReservation c).ring c) ∧
      ((s.releaseReservation c).ring c).writing = some w := by
    cases m : (s.client c).muted with
    | true =>
      rw [State.releaseReservation_of_muted s c m, State.ring_withRing_self]
      exact ⟨0, .of_eqs rfl rfl rfl rfl rfl rfl, hw⟩
    | false =>
      rw [State.releaseReservation_eq s c m, State.ring_withRing_self]
      obtain ⟨n, g⟩ := RingContext.drained_grown (s.ring c).freed
      exact ⟨n, g, (RingContext.drained_later (s.ring c).freed).2 w hw⟩
  obtain ⟨n, g, hw'⟩ := released
  have balance := RingContext.settled hw hw' g reserved
  have apart : s.RingsOnly ((s.settleWrite c).dropWaiting c) := (State.RingsOnly.settleWrite s c).trans (.dropWaiting _ c)
  have elsewhere : ∀ d, d ≠ c → ((s.settleWrite c).dropWaiting c).ring d = s.ring d := by
    intro d hd
    rw [State.dropWaiting, State.ring_setRing_of_ne _ _ _ _ hd, State.settleWrite, State.ring_setRing_of_ne _ _ _ _ hd]
    cases m : (s.client c).muted with
    | true => rw [State.releaseReservation_of_muted s c m, State.ring_withRing, if_neg hd]
    | false => rw [State.releaseReservation_eq s c m, State.ring_withRing, if_neg hd]
  have here : ((s.settleWrite c).dropWaiting c).ring c = ((s.releaseReservation c).ring c).cut := by
    simp only [State.dropWaiting, State.settleWrite, State.ring_setRing_self, RingContext.cut]
  have room : (s.ring c).freed.Roomy := le_trans (Nat.add_le_add_left (Nat.sub_le _ _) _) (h.owing.room c)
  have roomy := g.roomy room
  refine h.of_ringsOnly apart (Owing.of_ring (h.owing.setRing c _ ?_ (fun _ => rfl) (fun _ => rfl) (fun _ _ => rfl) ?_) here apart elsewhere)
    h.awake (fun b hb => ?_)
  · exact le_trans (Nat.add_le_add_left (Nat.sub_le _ _) _) roomy
  · have hf : ((s.releaseReservation c).ring c).fetch = (s.ring c).fetch := g.fetch
    simp only [RingContext.cut, hf, RingContext.handed, Option.map_none, Option.toList_none, List.nil_append, List.length_nil]
    simp only [RingContext.handed] at balance
    omega
  · by_cases e : b = c
    · subst e; rw [here]; exact (g.fetch).trans hb
    · rw [elsewhere b e]; exact hb

/-- A failed write of a client to which nothing is written: nothing waits behind it (R127). -/
theorem Sound.settleWrite_muted (h : Sound es [] s) {w : WriteInFlight} (hw : (s.ring c).writing = some w)
    (muted : (s.client c).muted = true) : Sound es [] (s.settleWrite c) := by
  have dropped := h.settleWrite_dropWaiting hw
  have silent := h.owing.silent c muted
  have same : (s.settleWrite c).dropWaiting c = s.settleWrite c := by
    have : ((s.settleWrite c).ring c).waiting = [] := by
      rw [State.settleWrite, State.ring_setRing_self, State.releaseReservation_of_muted s c muted, State.ring_withRing_self]
      exact silent
    exact State.dropWaiting_of_empty this
  rw [← same]; exact dropped

/-- The swap that waited for the failed write is called off: the answers are due (R134). -/
theorem Ruled.failSwap (h : Ruled A es [] s) (halted : (s.client c).state = .halted) : Ruled A es [] (s.failSwap c) := by
  have zero : c ≠ 0 := h.control.ne_zero (fun e => by rw [e] at halted; cases halted)
  unfold State.failSwap
  split
  · exact h
  · rename_i w hw
    refine Ruled.answerRefs .clientBusy w.waiting _ (h.setClient zero fun a => ?_)
    have own := a.standing.member c
    refine a.setClient c _ (a.owing.dueAnswers w.waiting.length (fun m => a.owing.silent c m) ?_) (fun d hd => ?_)
      (fun live => absurd halted live) (fun d => .inl d)
      ⟨own.grade, own.top, own.active, own.isolated, own.unconfigured, own.apart, own.pending, own.reset⟩ id
    · simp only [ClientRecord.owed, hw]; rfl
    · rw [List.append_nil] at hd
      obtain rfl := (List.mem_replicate.mp hd).2
      rw [State.client_setClient_of_ne _ _ _ _ zero.symm]
      exact h.control.awake

theorem State.halted_clientFault (s : State) (f : FaultInfo) : ((s.clientFault f).client f.client).state = .halted := by
  unfold State.clientFault
  dsimp only
  split
  · assumption
  · rw [State.notify_eq, State.client_noticedTo, State.haltClient_eq]
    change (((State.dropWaiting (s.offerFault f) f.client).setClient f.client _).client f.client).state = _
    rw [State.client_setClient_self]
    rfl

/-! ## Between events -/

/-- Client 0's law, and from `A` the laws of the clients. -/
structure Good (A : Prop) (s : State) : Prop where
  control : ControlLaw s
  clients : A → ClientLaws s

theorem Good.enter (h : Good A s) (running : s.engine = .running) : Ruled A s.table [] s :=
  ⟨h.control, fun a => (h.clients a).sound running⟩

theorem Ruled.leave (h : Ruled A es [] t) (table : t.table = es) : Good A t := by
  subst table
  exact ⟨h.control, fun a => (h.sound a).clientLaws⟩

/-- An event of the RUNNING engine that leaves the table alone. -/
theorem Good.event {f : State → Option State} (h : Good A s) (table : ∀ {u v}, f u = some v → v.table = u.table)
    (ruled : ∀ {es u v}, Ruled A es [] u → f u = some v → Ruled A es [] v) (e : takeEvent s f = .next t) : Good A t :=
  takeEvent_keeps (P := Good A) h (fun _ running hu => (ruled (h.enter running).quiet hu).leave (table (u := s.quiet) hu)) e

theorem Ruled.takeRecord {α : Type} {q : ClientId} {op : Decode.Opcode} {read : Record → Option α} {names : α → List Name}
    {owner : Taken → α → State → State} (h : Ruled A es [] s)
    (ho : ∀ k f u, (op.isCommand = true → k.client = 0) → (∃ r, read r = some f) → Ruled A es [k.client] u → Ruled A es [] (owner k f u))
    (e : s.takeRecord q op read names noAdjust owner = some t) : Ruled A es [] t := by
  obtain ⟨r, hand, cases⟩ := takeRecord_cases e
  have busy : (s.ring q).fetch ≠ .idle := by rw [hand]; simp
  rcases cases with ⟨status, charge, rfl⟩ | ⟨f, hf, privileged, rfl⟩
  · exact h.rings (.refuseAtIntake s _ status charge) (fun a => a.refuseAtIntake (k := s.takenAs q r) busy status charge)
  · simp only [noAdjust, ite_self]
    exact ho _ f _ privileged ⟨r, hf⟩ (h.rings (.of_ringsOnly (.idleFetch s q)) (fun a => a.idleFetch busy))

/-- A record command whose owner leaves the table alone. -/
theorem Good.record {α : Type} {q : ClientId} {op : Decode.Opcode} {read : Record → Option α} {names : α → List Name}
    {owner : Taken → α → State → State} (h : Good A s) (moves : ∀ k f u, WatchMove u (owner k f u))
    (ho : ∀ {es k f u}, (op.isCommand = true → k.client = 0) → (∃ r, read r = some f) → Ruled A es [k.client] u → Ruled A es [] (owner k f u))
    (e : takeEvent s (fun u => u.takeRecord q op read names noAdjust owner) = .next t) : Good A t := by
  refine h.event (fun hu => ?_) (fun a hu => a.takeRecord (fun k f u => ho) hu) e
  obtain ⟨r, -, ⟨status, charge, rfl⟩ | ⟨f, -, -, rfl⟩⟩ := takeRecord_cases hu
  · exact (SameBooks.refuseAtIntake _ _ status charge).table
  · obtain ⟨ws, -, books⟩ := moves _ _ _
    exact books.table

/-- A change of what neither client 0's law nor the laws of the clients speak of. -/
theorem Good.of_eqs (h : Good A s) (engine : t.engine = s.engine) (table : t.table = s.table) (token : t.nextToken = s.nextToken)
    (accounts : t.accounts = s.accounts) (rings : t.rings = s.rings) (clients : t.clients = s.clients)
    (standings : t.standings = s.standings) (limits : t.limits = s.limits) (watches : t.watches = s.watches)
    (queue : t.standingQueue = s.standingQueue) : Good A t := by
  have ha : ∀ c, t.account c = s.account c := fun c => by simp only [State.account, accounts]
  have hr : ∀ c, t.ring c = s.ring c := fun c => by simp only [State.ring, rings]
  have hc : ∀ c, t.client c = s.client c := fun c => by simp only [State.client, clients]
  have hs : ∀ c, t.standing c = s.standing c := fun c => by simp only [State.standing, standings]
  refine ⟨h.control.of_same (hc 0) (hs 0), fun a => ?_⟩
  obtain ⟨accountLaw, quotas, ringLaw, idle, standing⟩ := h.clients a
  refine ⟨?_, ⟨?_, ?_⟩, ⟨?_, ?_, ?_, ?_, ?_⟩, ⟨?_⟩, ?_⟩
  · have := accountLaw.books.congr (t := t) (fun c => by rw [ha]) (fun c => by rw [ha]) token.ge
    rw [← table] at this
    exact this.accountLaw
  · simp only [hc, ha]; exact quotas.holds
  · simp only [hc, ha]; exact quotas.waits
  · simp only [hr]; exact ringLaw.room
  · intro c
    rw [hr, ringLaw.reserved, State.reservedFor_eq, State.reservedFor_eq, State.answersOwed_congr hc, State.reservedHere,
      State.reservedHere, hr, ha]
  · simp only [hr, engine]; exact ringLaw.writer
  · simp only [hr, hc]; exact ringLaw.silent
  · simp only [hr, engine]; exact ringLaw.unused
  · simp only [hc, ha, hr, watches]; exact idle.idle
  · refine .of_members (limits ▸ standing.limits) (fun c => ?_) ?_
    · rw [hc, hs, limits]; exact standing.member c
    · simp only [queue, hc]; exact standing.charged

/-! ## Faults -/

theorem Good.offerOnly (h : Good A s) (f : FaultInfo) : Good A (offerOnly s f) :=
  h.of_eqs rfl rfl rfl rfl rfl rfl rfl rfl rfl rfl

theorem Good.clientReadFault (h : Good A s) (c : ClientId) (kind : FaultKind) : Good A (clientReadFault c kind s) := by
  have table := (SameBooks.clientReadFault c kind s).table
  revert table
  unfold Machine.clientReadFault
  split
  · exact fun _ => h
  · exact fun _ => h
  · rename_i index discard busy
    dsimp only
    split
    · exact fun _ => h
    · rename_i zero
      split
      · rename_i running
        intro table
        have settled : Ruled A s.table [] (s.quiet.settleRead c) := (h.enter running).quiet.settleRead (c := c) (by simp [busy])
        exact (Ruled.clientFault (f := { client := c, ring := .submission, index := index, kind := kind }) zero (fun _ => settled)
          (settled.dropWaiting c)).leave table
      · exact fun _ => h.offerOnly _
      · exact fun _ => h

theorem Good.clientWriteFault (h : Good A s) (c : ClientId) (kind : FaultKind) : Good A (clientWriteFault c kind s) := by
  have table := (SameBooks.clientWriteFault c kind s).table
  revert table
  unfold Machine.clientWriteFault
  split
  · exact fun _ => h
  · rename_i w hw
    dsimp only
    split
    · exact fun _ => h
    · rename_i zero
      split
      · rename_i running
        intro table
        have begun := (h.enter running).quiet
        have rings := State.RingsOnly.settleWrite s.quiet c
        have client : (s.quiet.settleWrite c).client c = s.client c := by rw [rings]; rfl
        refine Ruled.leave (Ruled.failSwap ?_ (State.halted_clientFault _ { client := c, ring := .completion, index := w.slot, kind := kind })) table
        refine Ruled.clientFault zero (fun halted => ?_) ?_
        · rw [client] at halted
          exact begun.rings (.of_ringsOnly rings)
            (fun a => a.settleWrite_muted (s := s.quiet) hw ((ClientRecord.muted_iff _).mpr (.inl halted)))
        · exact begun.rings (.of_ringsOnly (rings.trans (.dropWaiting _ c))) (fun a => a.settleWrite_dropWaiting (s := s.quiet) hw)
      · exact fun _ => h.offerOnly _
      · exact fun _ => h

end

end Sys2Proof.Machine
end

section
/-! PROOFS. The control rings' faults, START and the resets, and the small laws after every step. -/

namespace Sys2Proof.Machine

section
variable {A : Prop} {s t : State} {c : ClientId}

theorem Good.halt (h : Good A s) (cause : HaltCause) : Good A (s.halt cause) := by
  refine ⟨h.control.of_same rfl rfl, fun a => ?_⟩
  obtain ⟨accounts, quotas, rings, idle, standing⟩ := h.clients a
  exact ⟨⟨accounts.waits, accounts.listed, accounts.held, accounts.ordered, accounts.drawn⟩, ⟨quotas.holds, quotas.waits⟩,
    ⟨rings.room, rings.reserved, fun k => absurd rfl k, rings.silent, (fun k => by cases k)⟩, ⟨idle.idle⟩,
    .of_members standing.limits standing.member standing.charged⟩

/-- One ring context changes while no event is taken: what the ring law asks of it. -/
theorem RingLaw.setRing (h : RingLaw s) (r : RingContext) (room : r.Roomy)
    (balance : r.reserved + (s.reservedHere c) = (s.ring c).reserved + (State.setRing s c r).reservedHere c)
    (writer : s.engine ≠ .halted → r.writing = none → r.waiting = []) (silent : r.waiting = (s.ring c).waiting)
    (unused : s.engine = .stopped → c = 0 → r.occupied = 0 ∧ r.reserved = 0) : RingLaw (s.setRing c r) := by
  have ring := s.ring_setRing c
  refine ⟨fun d => ?_, fun d => ?_, fun k d => ?_, fun d k => ?_, fun k => ?_⟩
  · rw [ring]; split
    · exact room
    · exact h.room d
  · have := h.reserved d
    rw [State.reservedFor_eq] at this ⊢
    rw [State.answersOwed_congr (t := s.setRing c r) (s := s) (fun d => rfl)]
    by_cases e : d = c
    · subst e
      rw [State.ring_setRing_self]
      omega
    · have same : (s.setRing c r).reservedHere d = s.reservedHere d := by
        simp only [State.reservedHere, State.ring_setRing_of_ne _ _ _ _ e, State.account_setRing]
      rw [State.ring_setRing_of_ne _ _ _ _ e, same]
      exact this
  · rw [ring]; split
    · exact writer k
    · exact h.writer k d
  · rw [ring]; split
    · rename_i e; subst e; rw [silent]; exact h.silent d k
    · exact h.silent d k
  · rw [ring]; split
    · rename_i e; exact unused k e.symm
    · exact h.unused k

theorem Good.setRing (h : Good A s) (r : RingContext) (rings : RingLaw s → RingLaw (s.setRing c r))
    (fetch : (s.ring c).fetch = .idle → r.fetch = .idle) : Good A (s.setRing c r) := by
  refine ⟨h.control.of_same rfl rfl, fun a => ?_⟩
  obtain ⟨accounts, quotas, ringLaw, idle, standing⟩ := h.clients a
  refine ⟨⟨accounts.waits, accounts.listed, accounts.held, accounts.ordered, accounts.drawn⟩, ⟨quotas.holds, quotas.waits⟩,
    rings ringLaw, ⟨fun d k l => ?_⟩, .of_members standing.limits standing.member standing.charged⟩
  obtain ⟨noHold, noWait, noWatch, noFetch⟩ := idle.idle d k l
  refine ⟨noHold, noWait, noWatch, ?_⟩
  rw [State.ring_setRing]
  split
  · rename_i e; subst e; exact fetch noFetch
  · exact noFetch

/-! ## Faults on the control rings -/

/-- A control access has failed: the engine halts, and the slot of the access is given back (R145, R149). -/
theorem Good.controlFault (h : Good A s) (r : RingContext) (f : FaultInfo) (cause : HaltCause)
    (frame : r = { s.ring 0 with fetch := r.fetch, writing := r.writing, reserved := (s.ring 0).reserved - 1 })
    (owed : (s.ring 0).handed.length + (if (s.ring 0).fetch = .idle then 0 else 1) =
      r.handed.length + (if r.fetch = .idle then 0 else 1) + 1)
    (fetch : (s.ring 0).fetch = .idle → r.fetch = .idle) : Good A (((s.quiet.setRing 0 r).offerFault f).halt cause) := by
  have halted : Good A ((s.quiet.offerFault f).halt cause) := (h.of_eqs rfl rfl rfl rfl rfl rfl rfl rfl rfl rfl : Good A (s.quiet.offerFault f)).halt cause
  have hr : r.reserved = (s.ring 0).reserved - 1 := by rw [frame]
  refine halted.setRing (c := 0) r (fun law => law.setRing r ?_ ?_ (fun k => absurd rfl k) ?_ (fun k => by cases k)) fetch
  · have room : (s.ring 0).Roomy := law.room 0
    rw [frame]
    exact le_trans (Nat.add_le_add_left (Nat.sub_le _ _) _) room
  · have reserved := law.reserved 0
    rw [State.reservedFor_eq] at reserved
    simp only [State.reservedHere, State.ring_setRing_self, State.account_setRing] at reserved ⊢
    change (s.ring 0).reserved = (s.ring 0).handed.length + (if (s.ring 0).fetch = .idle then 0 else 1) + (s.account 0).waits + _ at reserved
    change r.reserved + ((s.ring 0).handed.length + (if (s.ring 0).fetch = .idle then 0 else 1) + (s.account 0).waits) =
      (s.ring 0).reserved + (r.handed.length + (if r.fetch = .idle then 0 else 1) + (s.account 0).waits)
    omega
  · rw [frame]; rfl

theorem Good.controlReadFault (h : Good A s) (kind : FaultKind) : Good A (controlReadFault kind s) := by
  unfold Machine.controlReadFault
  split
  · exact h
  · exact h
  · rename_i index discard busy
    dsimp only
    split
    · refine h.controlFault _ _ _ rfl ?_ (fun _ => rfl)
      simp [RingContext.readFailed, RingContext.handed, busy]
    · exact h.offerOnly _
    · exact h

theorem Good.controlWriteFault (h : Good A s) (kind : FaultKind) : Good A (controlWriteFault kind s) := by
  unfold Machine.controlWriteFault
  split
  · exact h
  · rename_i w hw
    dsimp only
    split
    · refine h.controlFault _ _ _ rfl ?_ id
      have handed : (s.ring 0).handed.length = (s.ring 0).writeFailed.handed.length + 1 := by
        simp [RingContext.writeFailed, RingContext.handed, hw, Nat.add_comm]
      rw [handed, Nat.add_right_comm]
      rfl
    · exact h.offerOnly _
    · exact h

/-! ## START and the resets -/

/-- START places the control rings, which no one has used (R128, R148). -/
theorem Good.startEngine (h : Good A s) : Good A (startEngine s) := by
  unfold Machine.startEngine
  split
  · rename_i stopped
    split
    · have placed : Good A (s.setRing 0 { s.ring 0 with place := s.regs.place }) := by
        refine h.setRing _ (fun law => law.setRing _ ?_ ?_ (fun _ => law.writer (by rw [stopped]; decide) 0) rfl (fun _ _ => law.unused stopped)) id
        · obtain ⟨occupied, reserved⟩ := law.unused stopped
          change (s.ring 0).occupied + (s.ring 0).reserved ≤ _
          rw [occupied, reserved]
          exact Nat.zero_le _
        · simp only [State.reservedHere, State.ring_setRing_self, State.account_setRing]; rfl
      refine ⟨placed.control.of_same rfl rfl, fun a => ?_⟩
      obtain ⟨accounts, quotas, rings, idle, standing⟩ := placed.clients a
      exact ⟨⟨accounts.waits, accounts.listed, accounts.held, accounts.ordered, accounts.drawn⟩, ⟨quotas.holds, quotas.waits⟩,
        ⟨rings.room, rings.reserved, fun _ => rings.writer (by rw [State.engine_setRing, stopped]; decide), rings.silent, (fun k => by cases k)⟩, ⟨idle.idle⟩,
        .of_members standing.limits standing.member standing.charged⟩
    · exact h.of_eqs rfl rfl rfl rfl rfl rfl rfl rfl rfl rfl
  · exact h

theorem Good.afresh (q : List Instr) (n : Epoch) (regs : Registers) (capture : Capture) : Good A (.afresh q n regs capture) :=
  ⟨.afresh q n regs capture, fun _ => .afresh q n regs capture⟩

theorem Good.softReset {andStart : Bool} (e : execSoftReset andStart s = .next t) : Good A t := by
  rw [execSoftReset, softReset_eq] at e
  rw [← Host.Outcome.next.inj e]
  split
  · exact (Good.afresh _ _ _ _).startEngine
  · exact .afresh _ _ _ _

theorem Good.posted {index : BitVec 12} {f : ClientId → BitVec 12 → State → Option State} (h : Good A s)
    (books : ∀ {u v}, f c index u = some v → SameBooks u v)
    (ruled : ∀ {es u v}, Ruled A es [] u → (u.client c).state ≠ .unconfigured → f c index u = some v → Ruled A es [] v)
    (e : takeEvent s (postTaken c (f c index)) = .next t) : Good A t :=
  h.event (fun hu => (SameBooks.postTaken books hu).table) (fun a hu => Ruled.postTaken (fun k => ruled a k) hu) e

theorem Good.report {epoch : Epoch} {o : Host.Outcome State Fault Refusal} (h : Good A s) (ho : o = .next t → Good A t)
    (e : takeReport epoch s o = .next t) : Good A t := takeReport_keeps h ho e

theorem Good.submit {index : BitVec 12} (h : Good A s) (e : takeEvent s (postTaken c (submitPost c index)) = .next t) : Good A t :=
  h.posted (f := submitPost) .submitPost (fun a _ => a.submitPost) e

theorem Good.consumed {index : BitVec 12} (h : Good A s) (e : takeEvent s (postTaken c (consumedPost c index)) = .next t) : Good A t :=
  h.posted (f := consumedPost) .consumedPost (fun a => a.consumedPost) e

theorem Good.arm (h : Good A s) (e : takeEvent s (postTaken c (armPost c)) = .next t) : Good A t :=
  h.posted (index := 0) (f := fun c _ => armPost c) .armPost (fun a _ => a.armPost) e

theorem Good.registerWrite {offset : BitVec 12} {value : Word} (h : Good A s) (e : execRegisterWrite offset value s = .next t) :
    Good A t := by
  unfold execRegisterWrite at e
  generalize Decode.registerWrite offset value = i at e
  cases i with
  | submit c index => exact h.submit e
  | consumed c index => exact h.consumed e
  | arm c index => exact h.arm e
  | start => exact Host.Outcome.next.inj e ▸ h.startEngine
  | softReset andStart => exact .softReset e
  | faultClear _ => exact Host.Outcome.next.inj e ▸ h.of_eqs rfl rfl rfl rfl rfl rfl rfl rfl rfl rfl
  | _ =>
    have stored : Good A (if s.engine = .stopped then { s with regs := s.regs.write offset value } else s) := by
      split
      · exact h.of_eqs rfl rfl rfl rfl rfl rfl rfl rfl rfl rfl
      · exact h
    exact Host.Outcome.next.inj e ▸ stored

/-! ## Every command -/

theorem standingFields_range {f : Decode.StandingFields} (h : ∃ r, Decode.standingFields r = some f) : f.score ≤ 255 := by
  obtain ⟨r, hr⟩ := h
  unfold Decode.standingFields at hr
  split at hr <;> cases hr
  exact Nat.le_of_lt_succ (Decode.field r 9 1).isLt

theorem Ruled.tickArrives {es : List LockEntry} (h : Ruled A es [] s) : Ruled A es [] s.tickArrives := by
  refine Ruled.ite (fun _ => Ruled.ite (fun _ => ?_) (fun _ => ?_)) (fun _ => ?_)
  all_goals exact h.aside (.of_eqs rfl rfl rfl rfl rfl rfl) rfl rfl rfl rfl rfl rfl

theorem Ruled.some_tickArrives {es : List LockEntry} (h : Ruled A es [] s) (e : some s.tickArrives = some t) : Ruled A es [] t :=
  Option.some.inj e ▸ h.tickArrives

theorem Ruled.startOwed {es : List LockEntry} (h : Ruled A es [] s) (e : s.startOwed = some t) : Ruled A es [] t := by
  unfold State.startOwed at e
  split at e
  · cases e
  · split at e <;> cases e
    exact h.aside (.of_eqs rfl rfl rfl rfl rfl rfl) rfl rfl rfl rfl rfl rfl

theorem Ruled.refuseUnknown {es : List LockEntry} (h : Ruled A es [] s) (e : refuseUnknown c s = some t) : Ruled A es [] t := by
  unfold Machine.refuseUnknown at e
  split at e
  · rename_i r hand
    split at e <;> cases e
    exact h.rings (.refuseAtIntake s _ _ _) (fun a => a.refuseAtIntake (k := s.takenAs c r) (by rw [State.takenAs_client, hand]; simp) _ _)
  · cases e


theorem LockMove.good (m : LockMove s t) (h : Good A s) (table : A → TableLaw s) (tokens : A → s.nextToken ≤ 2 ^ 64) : Good A t := by
  refine ⟨h.control.of_same (m.client 0).1 (m.client 0).2, fun a => ?_⟩
  rcases m with rfl | ⟨running, -, within, kept⟩ | ⟨-, rfl⟩
  · exact h.clients a
  · have entered : Kept False True [] s := ⟨table a, False.elim, fun _ _ => (h.clients a).sound running⟩
    exact ((kept False True entered).sound trivial (within (tokens a))).clientLaws
  · have quiet : Good A s.quiet := h.of_eqs rfl rfl rfl rfl rfl rfl rfl rfl rfl rfl
    exact (quiet.halt .tokenSpace).clients a

theorem exec_good {i : Instr} (h : Good A s) (table : A → TableLaw s) (tokens : A → s.nextToken ≤ 2 ^ 64)
    (e : exec i s = .next t) : Good A t := by
  rcases hi : isLockEvent i with _ | _
  case true => exact (exec_lockEvent hi e).good h table tokens
  have books : ∀ {α : Type} {f : Taken → α → State → State}, (∀ k g u, SameBooks u (f k g u)) → ∀ k g u, WatchMove u (f k g u) :=
    fun b k g u => .of_books (b k g u)
  cases i with
  | watch q => exact h.record .watchTaken (fun _ _ a => a.watchTaken _) e
  | unwatch q => exact h.record .unwatchTaken (fun _ _ a => a.unwatchTaken _) e
  | nop q => exact h.record (books fun k _ u => .answer u k _) (fun _ _ a => a.answer _) e
  | configureClient q => exact h.record (books .configureTaken) (fun hk _ a => a.configureTaken (hk rfl) _) e
  | configureClientRingSwap c => exact h.event (fun hu => (SameBooks.swapRings hu).table) .swapRings e
  | enableClient q => exact h.record (books .enableTaken) (fun hk _ a => a.enableTaken (hk rfl) _) e
  | disableClient q => exact h.record (books .disableTaken) (fun hk _ a => a.disableTaken (hk rfl) _) e
  | resetClient q => exact h.record (books .resetTaken) (fun hk _ a => a.resetTaken (hk rfl) _) e
  | reinstateClient q => exact h.record (books .reinstateTaken) (fun hk _ a => a.reinstateTaken (hk rfl) _) e
  | setStanding q => exact h.record (books .setStandingTaken) (fun _ hf a => a.setStandingTaken (standingFields_range hf)) e
  | queryClient q => exact h.record (books fun k _ u => .answerWith u k _ _) (fun _ _ a => a.answerWith _ _) e
  | setTimebase q =>
    refine h.record (books .timebaseTaken) (fun _ _ a => Ruled.answer ?_ _) e
    exact a.aside (.of_eqs rfl rfl rfl rfl rfl rfl) rfl rfl rfl rfl rfl rfl
  | setLimits q => exact h.record (books .limitsTaken) (fun _ _ a => a.limitsTaken _) e
  | submit c index => exact h.submit e
  | consumed c index => exact h.consumed e
  | arm c index => exact h.arm e
  | postUndefinedKind c index => cases e; exact h
  | start => exact Host.Outcome.next.inj e ▸ h.startEngine
  | softReset andStart => exact .softReset e
  | faultClear value => exact Host.Outcome.next.inj e ▸ h.of_eqs rfl rfl rfl rfl rfl rfl rfl rfl rfl rfl
  | registerWrite offset value => exact h.registerWrite e
  | powerOn => exact Host.Outcome.next.inj e ▸ Good.afresh _ _ _ _
  | hostLinkReset => exact Host.Outcome.next.inj e ▸ Good.afresh _ _ _ _
  | fetchGrant => exact h.event (fun hu => (SameBooks.fetchNext hu).table) .fetchNext e
  | fetchReadReturn access bytes =>
    exact h.report (h.event (fun hu => (SameBooks.of_ringsOnly (.returnRead hu)).table) .returnRead) e
  | completionWriteEnd access => exact h.report (h.event (fun hu => (SameBooks.of_ringsOnly (.endWrite hu)).table) .endWrite) e
  | clientSubmissionReadFault access kind => exact h.report (fun k => Host.Outcome.next.inj k ▸ h.clientReadFault _ _) e
  | clientCompletionWriteFault access kind => exact h.report (fun k => Host.Outcome.next.inj k ▸ h.clientWriteFault _ _) e
  | controlReadFault failure => exact h.report (fun k => Host.Outcome.next.inj k ▸ h.controlReadFault _) e
  | controlWriteFault failure => exact h.report (fun k => Host.Outcome.next.inj k ▸ h.controlWriteFault _) e
  | tick => exact h.event (f := fun u => some u.tickArrives) (fun hu => Option.some.inj hu ▸ (SameBooks.tickArrives _).table) .some_tickArrives e
  | owedTickSweep => exact h.event (fun hu => (SameBooks.startOwed hu).table) .startOwed e
  | recoveryVisit c => exact h.event (fun hu => (SameBooks.visitRecovering hu).table) .visitRecovering e
  | recoveryComplete c => exact h.event (fun hu => (SameBooks.completeVisit hu).table) .completeVisit e
  | standingCharge c amount => exact h.event (fun hu => (SameBooks.takeCharge hu).table) .takeCharge e
  | standingCredit c => exact h.event (fun hu => (SameBooks.takeCredit hu).table) .takeCredit e
  | teardownRemoveWatches c =>
    refine h.event (fun hu => ?_) .removeWatchesStep e
    obtain ⟨ws, -, same⟩ := WatchMove.removeWatchesStep hu
    exact same.table
  | teardownEnd c => exact h.event (fun hu => (SameBooks.endTeardownStep hu).table) .endTeardownStep e
  | watchEventMatch name => exact h.event (fun hu => (SameBooks.matchNext hu).table) .matchNext e
  | unknownOpcode q => exact h.event (fun hu => (SameBooks.refuseUnknown hu).table) .refuseUnknown e
  | _ => cases hi

theorem step_good (h : Good A s) (table : A → TableLaw s) (tokens : A → s.nextToken ≤ 2 ^ 64) (e : step s = .next t) : Good A t := by
  rcases step_cases e with rfl | ⟨c, rest, -, hc⟩
  · unfold State.unitPasses
    split
    · rename_i running
      split
      · exact h.of_eqs rfl rfl rfl rfl rfl rfl rfl rfl rfl rfl
      · exact Ruled.leave (h.enter running).quiet.tickArrives (SameBooks.tickArrives s.quiet).table
    · exact h
  · exact exec_good (s := { s with pending := rest }) (h.of_eqs rfl rfl rfl rfl rfl rfl rfl rfl rfl rfl)
      (fun a => (table a).of_table rfl) tokens hc

end

end Sys2Proof.Machine

open Sys2Proof.Machine in
/-- Settles O8: what a step may change of the books bounds tokens and watches, and each event of the RUNNING engine, in the order
of its operations, keeps the records of the clients in balance. -/
theorem everyStepKeepsTheSmallLaws : Obligations.EveryStepKeepsTheSmallLaws := by
  refine ⟨fun s t a h => ?_, fun s t a h => ?_, fun s t a h => ?_, fun s t table tokens control a h => ?_⟩
  · obtain ⟨q, m⟩ := step_moves h
    exact m.tokenLaw ⟨a.low, a.high⟩
  · exact (step_good (A := False) ⟨a, False.elim⟩ False.elim False.elim h).control
  · obtain ⟨q, m⟩ := step_moves h
    exact m.watchLaw (a.of_watches rfl)
  · exact (step_good (A := True) ⟨control, fun _ => a⟩ (fun _ => table) (fun _ => tokens.high) h).clients trivial
end

section
/-! PROOFS. What an immediate grant leaves, for one name and for a set (R10, R26, R27, R36 to R39). -/

namespace Sys2Proof.Machine

/-! ## The batch of an event -/

/-- The batch that the event opened holds these watch events so far. -/
def State.hasTold (s : State) (evs : List WatchEvent) (u : State) : Prop := u.watchEvents = s.watchEvents ++ [evs]

section
variable {s t u : State} {evs : List WatchEvent}

theorem State.hasTold_openBatch (s : State) : s.hasTold [] s.openBatch := rfl

theorem State.hasTold.emit (h : s.hasTold evs u) (ev : WatchEvent) : s.hasTold (evs ++ [ev]) (u.emit ev) := by
  unfold State.hasTold at *
  rw [State.emit, h, appendLast_append]

theorem State.hasTold.same (h : s.hasTold evs u) (k : t.watchEvents = u.watchEvents) : s.hasTold evs t := k.trans h

theorem State.hasTold.closeBatch (h : s.hasTold evs u) (some : evs ≠ []) :
    u.closeBatch = { u with watchEvents := s.watchEvents ++ [evs] } := by
  rw [State.closeBatch, h, closeLast_append, if_neg some]

end

/-! ## ACQUIRE -/

section
variable {s : State} {k : Taken} {f : Decode.AcquireFields}

theorem acquireTaken_absent (he : s.entry? f.name = none) (room : s.holdRoom k.client) (free : s.freeEntries ≠ 0)
    {lease : Nat} (hl : effectiveLease f.lease (s.client k.client).config.defaultLease k.cap = lease) :
    acquireTaken k f s =
      ((s.countRequest k.client).grantName k.client f.name f.mode lease k.tag).answerGranted k s.token lease 1 := by
  subst hl
  have he' : (s.countRequest k.client).entry? f.name = none := he
  have quota : (s.countRequest k.client).atHoldQuota k.client = false :=
    (State.atHoldQuota_iff _ _).mpr (by simpa [State.holdRoom, State.countRequest] using room)
  unfold acquireTaken
  dsimp only
  rw [he']
  dsimp only
  rw [if_neg (by rw [quota]; decide), if_neg (show (s.countRequest k.client).freeEntries ≠ 0 from free)]
  rfl

theorem acquireTaken_admitted {e : LockEntry} (he : s.entry? f.name = some e) (without : e.without k.client)
    (room : s.holdRoom k.client) (admits : e.admitsAtOnce f.mode)
    {lease : Nat} (hl : effectiveLease f.lease (s.client k.client).config.defaultLease k.cap = lease) :
    acquireTaken k f s =
      ((s.countRequest k.client).grantName k.client f.name f.mode lease k.tag).answerGranted k s.token lease 1 := by
  subst hl
  have he' : (s.countRequest k.client).entry? f.name = some e := he
  have quota : (s.countRequest k.client).atHoldQuota k.client = false :=
    (State.atHoldQuota_iff _ _).mpr (by simpa [State.holdRoom, State.countRequest] using room)
  obtain ⟨noHold, noWait⟩ := (e.without_iff k.client).mp without
  unfold acquireTaken
  dsimp only
  rw [he']
  dsimp only
  rw [if_neg (by rw [noHold]; decide), if_neg (by rw [noWait]; decide), if_neg (by rw [quota]; decide),
    if_pos ((e.grantableNow_iff _).mpr admits)]
  rfl

theorem acquireTaken_grantable (grantable : (s.entry? f.name = none ∧ s.freeEntries ≠ 0) ∨
      (∃ e, s.entry? f.name = some e ∧ e.without k.client ∧ e.admitsAtOnce f.mode)) (room : s.holdRoom k.client)
    {lease : Nat} (hl : effectiveLease f.lease (s.client k.client).config.defaultLease k.cap = lease) :
    acquireTaken k f s =
      ((s.countRequest k.client).grantName k.client f.name f.mode lease k.tag).answerGranted k s.token lease 1 := by
  rcases grantable with ⟨he, free⟩ | ⟨e, he, without, admits⟩
  · exact acquireTaken_absent he room free hl
  · exact acquireTaken_admitted he without room admits hl

end

/-! ## What is looked up after an entry is stored or removed -/

theorem State.differsAt_storeEntry {s t : State} {e : LockEntry} {name : Name} (hn : e.name = name)
    (table : t.table = putEntry e s.table) : s.differsAt t name (some e) := by
  have lookup : ∀ m, t.entry? m = (s.storeEntry e).entry? m := fun m => by simp only [State.entry?, table, State.storeEntry]
  refine ⟨?_, fun m hm => ?_⟩
  · rw [lookup, State.lookup_storeEntry, if_pos hn]
  · rw [lookup, State.lookup_storeEntry, if_neg (fun k => hm (k.symm.trans hn))]

/-- An ACQUIRE as intake passes it (R105). -/
def State.acquirePassed (s : State) (q : ClientId) (r : Record) (f : Decode.AcquireFields) : Decode.AcquireFields :=
  if (s.takenAs q r).cap.isSome then adjustAcquire s.limits f else f

theorem State.acquirePassed_fields (s : State) (q : ClientId) (r : Record) (f : Decode.AcquireFields) :
    (s.acquirePassed q r f).name = f.name ∧ (s.acquirePassed q r f).mode = f.mode ∧
      effectiveLease (s.acquirePassed q r f).lease (s.client q).config.defaultLease (s.takenAs q r).cap = s.leaseFor q f.lease := by
  have lease := effectiveLease_eq s q r f.lease
  unfold State.acquirePassed
  cases h : (s.takenAs q r).cap.isSome <;> rw [h] at lease <;> exact ⟨rfl, rfl, lease⟩

/-- The state of an ACQUIRE's event when its grant is made and its answer not yet (R27). -/
def State.acquireGrant (s : State) (q : ClientId) (r : Record) (f : Decode.AcquireFields) : State :=
  ((s.recordTaken q).openBatch.countRequest q).grantName q f.name f.mode (s.leaseFor q f.lease) (Decode.tag r)

/-- The state of an ACQUIRE's event when its grant is made and answered (R27). -/
def State.acquired (s : State) (q : ClientId) (r : Record) (f : Decode.AcquireFields) : State :=
  (s.acquireGrant q r f).alsoReplied s q r .granted (.granted (BitVec.ofNat 64 s.nextToken) (s.leaseFor q f.lease) 0 none 1)

/-- An ACQUIRE finds its name absent and room for an entry, or a resident entry that admits it (R23, R26). -/
def State.acquirable (s : State) (q : ClientId) (f : Decode.AcquireFields) : Prop :=
  (s.entry? f.name = none ∧ s.freeEntries ≠ 0) ∨ (∃ e, s.entry? f.name = some e ∧ e.without q ∧ e.admitsAtOnce f.mode)

section
variable {s : State} {q : ClientId} {r : Record} {f : Decode.AcquireFields}

theorem acquireTaken_passed (room : s.holdRoom q) (grantable : s.acquirable q f) :
    acquireTaken (s.takenAs q r) (s.acquirePassed q r f) (s.recordTaken q).openBatch = s.acquired q r f := by
  obtain ⟨name, mode, lease⟩ := s.acquirePassed_fields q r f
  rw [acquireTaken_grantable (s := (s.recordTaken q).openBatch) (k := s.takenAs q r) (by rw [name, mode]; exact grantable) room lease,
    State.answerGranted, State.answerWith_eq, name, mode]
  rfl

theorem State.mapAccount_mapAccount (s : State) (c : ClientId) (g h : Account → Account) :
    (s.mapAccount c g).mapAccount c h = s.mapAccount c (fun a => h (g a)) := by
  simp [State.mapAccount, State.withAccount, State.account]

/-- The grant of an ACQUIRE, told and stored: on a new entry, or in the lowest free slot of the resident one (R5, R10, R27). -/
def State.acquiredAt (s : State) (q : ClientId) (r : Record) (f : Decode.AcquireFields) (free : Nat) (e : LockEntry) : State :=
  ((({ (s.recordTaken q).openBatch with freeEntries := free }.drawToken.mapAccount q
    (fun a => a.asked.granted f.name (BitVec.ofNat 64 s.nextToken))).emitGranted f.name q (BitVec.ofNat 64 s.nextToken)
      f.mode).storeEntry e).alsoReplied s q r .granted (.granted (BitVec.ofNat 64 s.nextToken) (s.leaseFor q f.lease) 0 none 1)

theorem State.acquired_absent (he : s.entry? f.name = none) : s.acquired q r f =
    s.acquiredAt q r f (s.freeEntries - 1)
      (newEntry f.name (grantedHold q s.nextToken f.mode (s.leaseFor q f.lease) (Decode.tag r))) := by
  unfold State.acquired State.acquireGrant
  rw [State.grantName_absent (s := (s.recordTaken q).openBatch.countRequest q) he]
  have accounts := { (s.recordTaken q).openBatch with freeEntries := s.freeEntries - 1 }.drawToken.mapAccount_mapAccount q
    Account.asked (Account.granted · f.name (BitVec.ofNat 64 s.nextToken))
  unfold State.acquiredAt
  rw [← accounts]
  rfl

theorem State.acquired_resident {e : LockEntry} {i : SlotId} (he : s.entry? f.name = some e) (admits : e.admitsAtOnce f.mode)
    (lowest : e.lowestFree i) : s.acquired q r f =
    s.acquiredAt q r f s.freeEntries
      (e.setSlot i (some (grantedHold q s.nextToken f.mode (s.leaseFor q f.lease) (Decode.tag r)))) := by
  unfold State.acquired State.acquireGrant
  rw [State.grantName_resident (s := (s.recordTaken q).openBatch.countRequest q) he admits lowest]
  have accounts := (s.recordTaken q).openBatch.drawToken.mapAccount_mapAccount q
    Account.asked (Account.granted · f.name (BitVec.ofNat 64 s.nextToken))
  unfold State.acquiredAt
  rw [show { (s.recordTaken q).openBatch with freeEntries := s.freeEntries } = (s.recordTaken q).openBatch from rfl, ← accounts]
  rfl

theorem State.closeBatch_acquiredAt (free : Nat) (e : LockEntry) : (s.acquiredAt q r f free e).closeBatch =
    { s.acquiredAt q r f free e with
      watchEvents := s.watchEvents ++
        [[{ kind := .granted, name := f.name, client := q, token := BitVec.ofNat 64 s.nextToken, mode := f.mode }]] } := by
  have told := (State.hasTold_openBatch s).emit
    { kind := .granted, name := f.name, client := q, token := BitVec.ofNat 64 s.nextToken, mode := f.mode }
  exact (told.same (t := s.acquiredAt q r f free e) rfl).closeBatch (by simp)

theorem State.table_acquiredAt (free : Nat) (e : LockEntry) : (s.acquiredAt q r f free e).table = putEntry e s.table := by
  dsimp only [State.acquiredAt, State.alsoReplied, State.answeredTo, State.withRing, State.mapAccount, State.withAccount,
    State.drawToken, State.emitGranted, State.emit, State.storeEntry, State.openBatch,
    State.recordTaken]

/-- What an ACQUIRE granted at once leaves besides the lock table, which stands as in `t` (R27). -/
def State.acquireLeaves (s : State) (q : ClientId) (r : Record) (f : Decode.AcquireFields) (free : Nat) (t : State) : State :=
  let token : Token := BitVec.ofNat 64 s.nextToken
  { ((s.replied q r .granted (.granted token (s.leaseFor q f.lease) 0 none 1)).told
      [{ kind := .granted, name := f.name, client := q, token := token, mode := f.mode }]).mapAccount q
        (fun a => a.asked.granted f.name token) with
    table := t.table, freeEntries := free, nextToken := s.nextToken + 1 }

theorem State.acquiredAt_leaves (free : Nat) (e : LockEntry) : (s.acquiredAt q r f free e).closeBatch =
    s.acquireLeaves q r f free (s.acquiredAt q r f free e).closeBatch := by
  rw [closeBatch_acquiredAt]
  dsimp only [acquireLeaves, acquiredAt, State.replied, State.alsoReplied, State.answeredTo, State.withRing, State.told,
    State.mapAccount, State.withAccount, State.account, State.ring, State.client, State.drawToken, State.emitGranted, State.emit,
    State.storeEntry, State.openBatch, State.recordTaken, State.quiet]

theorem State.differsAt_acquiredAt (free : Nat) {e : LockEntry} (hn : e.name = f.name) :
    s.differsAt (s.acquiredAt q r f free e).closeBatch f.name (some e) := by
  refine State.differsAt_storeEntry hn ?_
  rw [State.table_closeBatch, table_acquiredAt]

theorem exec_acquire_acquiredAt (ready : Ready s q .acquire r) (hf : Decode.acquireFields r = some f)
    (admits : s.windowAdmits q [f.name]) (room : s.holdRoom q) (tokens : s.nextToken < 2 ^ 64) (grantable : s.acquirable q f)
    {free : Nat} {e : LockEntry} (same : s.acquired q r f = s.acquiredAt q r f free e) :
    exec (.acquire q) s = .next (s.acquiredAt q r f free e).closeBatch :=
  takeLockEvent_record Decode.acquireFields (fun f => [f.name]) adjustAcquire acquireTaken f ready hf
    (by simp [Decode.Opcode.isCommand]) admits _ ((acquireTaken_passed room grantable).trans same) tokens

end

end Sys2Proof.Machine

open Sys2Proof Sys2Proof.Machine in
/-- Settles O13: the grant is computed on the entry that it creates or joins. -/
theorem acquireGrantsAtOnce : Obligations.AcquireGrantsAtOnce := by
  intro q s r f ready hf admits room tokens token hold after
  have settle : ∀ free (e : LockEntry), s.acquirable q f → e.name = f.name → s.acquired q r f = s.acquiredAt q r f free e →
      ∃ t, exec (.acquire q) s = .next t ∧ after t free ∧ s.differsAt t f.name (some e) := fun free e grantable hn same =>
    ⟨_, exec_acquire_acquiredAt ready hf admits room tokens grantable same, State.acquiredAt_leaves free e,
      State.differsAt_acquiredAt free hn⟩
  exact ⟨fun he free => settle _ _ (.inl ⟨he, free⟩) rfl (State.acquired_absent he),
    fun e i he without can lowest => settle _ (e.setSlot i (some hold)) (.inr ⟨e, he, without, can⟩)
      (State.name_of_lookup (e := e) he) (State.acquired_resident he can lowest)⟩
end

section
/-! PROOFS. The two queries answer with what stands (R18, R139). -/

namespace Sys2Proof.Machine

theorem LockEntry.snapshot_eq {e : LockEntry} {i : SlotId} {h : Holder} (first : e.firstHeld i h) :
    e.snapshot =
      { mode := e.mode, holders := e.holds, firstHolder := h.client, waiters := e.waiters.length,
        headClient := match e.waiters with | [] => 0 | w :: _ => w.client,
        headMode := match e.waiters with | [] => .shared | w :: _ => w.mode,
        upgradePending := e.upgrade.isSome, contention := e.contention } := by
  rw [LockEntry.snapshot, e.holderCount_eq, LockEntry.firstHeld_holder first]
  cases e.waiters <;> rfl

theorem State.ring_recordTaken_counts (s : State) (q c : ClientId) :
    ((s.recordTaken q).ring c).reserved = (s.ring c).reserved ∧ ((s.recordTaken q).ring c).lost = (s.ring c).lost := by
  by_cases hc : c = q
  · subst hc
    simp [State.recordTaken, State.ring, RingContext.idled]
  · have apart : q.val ≠ c.val := fun k => hc (Fin.ext k.symm)
    simp [State.recordTaken, State.ring, Vector.getElem_set_ne, apart]

theorem State.clientSnapshot_recordTaken (s : State) (q c : ClientId) :
    (s.recordTaken q).clientSnapshot c = s.clientSnapshot c := by
  obtain ⟨reserved, lost⟩ := s.ring_recordTaken_counts q c
  unfold State.clientSnapshot
  rw [reserved, lost]
  rfl

section
variable {s : State} {r : Record}

theorem exec_queryLock {name : Name} (ready : Ready s 0 .queryLock r) (hf : Decode.queryName r = some name) {status : Status}
    {body : Body} (answered : queryLockTaken (s.takenAs 0 r) name (s.recordTaken 0).openBatch =
      (s.recordTaken 0).openBatch.alsoReplied s 0 r status body) :
    exec (.queryLock 0) s = .next (s.replied 0 r status body) := by
  have taken := takeLockEvent_record Decode.queryName noNames noAdjust queryLockTaken name ready hf (fun _ => rfl)
    (by simp [State.windowAdmits, noNames]) _ ((congrArg (queryLockTaken _ · _) (ite_self _)).trans answered) ready.tokens
  refine taken.trans (congrArg Host.Outcome.next ?_)
  exact (congrArg State.closeBatch (answeredTo_openBatch _ _ _)).trans (closeBatch_openBatch _)

end

end Sys2Proof.Machine

open Sys2Proof Sys2Proof.Machine in
/-- Settles O27: the snapshots are those of the state that stands, and an event without a grant tells no watch event. -/
theorem queriesReportWithoutChange : Obligations.QueriesReportWithoutChange := by
  refine fun s r => ⟨fun name ready hf => ⟨fun he => ?_, fun e i h he first => ?_⟩, fun c ready hf => ?_⟩
  · refine exec_queryLock ready hf ?_
    rw [queryLockTaken, show (s.recordTaken 0).openBatch.entry? name = none from he]
    exact State.answer_eq _ _ _ _ _
  · refine exec_queryLock ready hf ?_
    rw [queryLockTaken, show (s.recordTaken 0).openBatch.entry? name = some e from he]
    exact (State.answerWith_eq _ _ _ _ _ _).trans
      (congrArg (fun l => State.alsoReplied _ _ _ _ _ (.lock l)) (LockEntry.snapshot_eq first))
  · refine (takeEvent_record Decode.clientField noNames noAdjust queryClientTaken c ready hf (fun _ => rfl)
      (by simp [State.windowAdmits, noNames])).trans ?_
    have snapshot := s.clientSnapshot_recordTaken 0 c
    rw [show noAdjust s.limits c = c from rfl, ite_self, queryClientTaken, snapshot, State.answerWith_eq]
    rfl
end

section
/-! PROOFS. A hold leaves, by a RELEASE, a FORCE_RELEASE, a lease expiry or a teardown: what the event leaves when nobody is let
in, in three cases: the last hold, another holder left, and the hold's own pending upgrade ended with it (R7, R12, R66, R72). -/

namespace Sys2Proof.Machine

/-! ## An event that lets nobody in -/

theorem State.stuckBehind.client {s t : State} {ws : List Waiter} (h : s.stuckBehind ws) (clients : t.clients = s.clients) :
    t.stuckBehind ws := by
  intro x hx
  have fit := h x hx
  simpa only [State.fit, State.client, clients] using fit

theorem State.stuckBehind_nil (s : State) : s.stuckBehind [] := fun _ h => nomatch h

theorem AtEntry.passAndClose_gone {w : AtEntry} (gone : w.entry.holds = 0) (nobody : w.entry.waiters = [])
    (noUpgrade : w.entry.upgrade = none) : w.passAndClose = w.state.removeEntry w.entry.name := by
  have pass : w.grantPass = w := by
    rw [AtEntry.grantPass, noUpgrade, nobody]
    exact congrArg (AtEntry.mk · w.state) (by rw [← nobody])
  rw [AtEntry.passAndClose, pass, AtEntry.close, LockEntry.holderCount_eq, if_pos gone]

/-- The pass stops at a list that is empty, or whose head is not grantable (R48). -/
theorem passWaiters_stop {ws : List Waiter} {w : AtEntry}
    (stop : ∀ x, ws.head? = some x → w.state.fit x.client ∧ ¬ w.entry.headGrantable x.mode = true) :
    passWaiters ws w = w.queue ws := by
  cases ws with
  | nil => rfl
  | cons x rest =>
    obtain ⟨fit, blocked⟩ := stop x rfl
    rw [passWaiters, if_neg (by rw [(w.state.unfit_iff _).mpr fit]; decide), if_neg blocked]
    rfl

theorem LockEntry.headGrantable_exclusive {e : LockEntry} (held : e.holds ≠ 0) : ¬ e.headGrantable .exclusive = true := by
  rw [LockEntry.headGrantable_iff]
  rintro (h | ⟨h, _⟩)
  · exact held h
  · cases h

theorem AtEntry.grantPass_stuck {w : AtEntry} (held : w.entry.holds ≠ 0) (stuck : w.state.stuckBehind w.entry.waiters)
    (noUpgrade : w.entry.upgrade = none) : w.grantPass = w := by
  rw [AtEntry.grantPass, noUpgrade]
  refine passWaiters_stop fun x hx => ?_
  obtain ⟨fit, exclusive⟩ := stuck x hx
  exact ⟨fit, by rw [exclusive]; exact LockEntry.headGrantable_exclusive held⟩

theorem AtEntry.passAndClose_stuck {w : AtEntry} (held : w.entry.holds ≠ 0) (stuck : w.state.stuckBehind w.entry.waiters)
    (noUpgrade : w.entry.upgrade = none) : w.passAndClose = w.state.storeEntry w.entry := by
  rw [AtEntry.passAndClose, AtEntry.grantPass_stuck held stuck noUpgrade, AtEntry.close, LockEntry.holderCount_eq, if_neg held]

/-! ## The pending upgrade of a hold that leaves -/

theorem timeoutBody_of_ne {x : Status} (h : x ≠ .timeout) (waited : Nat) (report : Report) : timeoutBody x waited report = .empty := by
  unfold timeoutBody
  split
  · exact absurd rfl h
  · rfl

theorem AtEntry.endUpgradeOfSlot_none {w : AtEntry} (noUpgrade : w.entry.upgrade = none) (i : SlotId)
    (status : State → ClientId → Status) : w.endUpgradeOfSlot i status = w := by
  rw [AtEntry.endUpgradeOfSlot, noUpgrade]

theorem AtEntry.endUpgradeOfSlot_own {w : AtEntry} {u : PendingUpgrade} (hu : w.entry.upgrade = some u)
    {status : State → ClientId → Status} {x : Status} (hx : status w.state u.client = x) (late : x ≠ .timeout) :
    w.endUpgradeOfSlot u.slot status =
      { entry := { w.entry with upgrade := none },
        state := (w.state.subWait u.client).answeredTo u.client { status := x, tag := u.tag, index := u.index, body := .empty } } := by
  rw [AtEntry.endUpgradeOfSlot, hu]
  dsimp only
  rw [if_pos rfl, hx, AtEntry.endUpgrade, State.respond_eq, PendingUpgrade.response, timeoutBody_of_ne late]

/-! ## A hold leaves -/

section
variable {s : State} {e : LockEntry} {i : SlotId} {h : Holder} {g : State → State} {status : State → ClientId → Status}

/-- The event in which the hold of slot `i` leaves, is told as `g` tells it, and takes its pending upgrade with it. -/
def AtEntry.holdLeaves (w : AtEntry) (i : SlotId) (h : Holder) (g : State → State) (status : State → ClientId → Status) : State :=
  (((w.removeHold i h).onState g).endUpgradeOfSlot i status).passAndClose

theorem LockEntry.holds_vacated_zero (alone : ∀ j, j ≠ i → e.slots[j] = none) : (e.setSlot i none).holds = 0 := by
  rw [LockEntry.holds_zero_iff]
  intro j
  rw [LockEntry.slots_setSlot]
  split
  · rfl
  · rename_i hj
    exact alone j hj

theorem LockEntry.holds_vacated_ne_zero {j : SlotId} (hj : j ≠ i) (held : e.slots[j] ≠ none) : (e.setSlot i none).holds ≠ 0 := by
  rw [ne_eq, LockEntry.holds_zero_iff]
  intro all
  have := all j
  rw [LockEntry.slots_setSlot, if_neg hj] at this
  exact held this

theorem AtEntry.holdLeaves_last (nobody : e.waiters = []) (noUpgrade : e.upgrade = none) (alone : ∀ j, j ≠ i → e.slots[j] = none) :
    AtEntry.holdLeaves { entry := e, state := s } i h g status = (g (s.dropHold h.client h.token)).removeEntry e.name := by
  have same := AtEntry.endUpgradeOfSlot_none (w := ({ entry := e, state := s : AtEntry }.removeHold i h).onState g) noUpgrade i status
  rw [AtEntry.holdLeaves, same, AtEntry.passAndClose_gone (LockEntry.holds_vacated_zero alone) nobody noUpgrade]
  rfl

theorem AtEntry.holdLeaves_stuck (stuck : (g (s.dropHold h.client h.token)).stuckBehind e.waiters) (noUpgrade : e.upgrade = none)
    {j : SlotId} (hj : j ≠ i) (held : e.slots[j] ≠ none) :
    AtEntry.holdLeaves { entry := e, state := s } i h g status = (g (s.dropHold h.client h.token)).storeEntry (e.setSlot i none) := by
  have same := AtEntry.endUpgradeOfSlot_none (w := ({ entry := e, state := s : AtEntry }.removeHold i h).onState g) noUpgrade i status
  rw [AtEntry.holdLeaves, same, AtEntry.passAndClose_stuck (LockEntry.holds_vacated_ne_zero hj held) stuck noUpgrade]
  rfl

theorem AtEntry.holdLeaves_upgrade {u : PendingUpgrade} (hu : e.upgrade = some u) (hi : u.slot = i) {x : Status}
    (hx : status (g (s.dropHold h.client h.token)) u.client = x) (late : x ≠ .timeout)
    (stuck : (g (s.dropHold h.client h.token)).stuckBehind e.waiters) {j : SlotId} (hj : j ≠ i) (held : e.slots[j] ≠ none) :
    AtEntry.holdLeaves { entry := e, state := s } i h g status =
      (((g (s.dropHold h.client h.token)).subWait u.client).answeredTo u.client
        { status := x, tag := u.tag, index := u.index, body := .empty }).storeEntry { e.setSlot i none with upgrade := none } := by
  subst hi
  have ended := AtEntry.endUpgradeOfSlot_own (w := ({ entry := e, state := s : AtEntry }.removeHold u.slot h).onState g) hu hx late
  rw [AtEntry.holdLeaves, ended, AtEntry.passAndClose_stuck (LockEntry.holds_vacated_ne_zero hj held) (stuck.client rfl) rfl]
  rfl

end

end Sys2Proof.Machine
end

section
/-! PROOFS. RELEASE (R66): with nobody let in, with the head waiter granted (R45, R50), and with the pending upgrade of the one
holder left converted (R46). -/

namespace Sys2Proof.Machine

/-- What the Watch Filter is told of a hold, and of an entry that is freed (R90). -/
def Holder.event (h : Holder) (kind : EventKind) (name : Name) : WatchEvent :=
  { kind := kind, name := name, client := h.client, token := h.token, mode := h.mode }

@[inherit_doc Holder.event] def freedEvent (name : Name) : WatchEvent :=
  { kind := .freed, name := name, client := 0, token := 0, mode := .shared }

/-! ## A found RELEASE -/

/-- In the event of the record `r`, the hold that left is told, credited and answered (R66). -/
def State.toldReleased (s : State) (q : ClientId) (r : Record) (name : Name) (h : Holder) (t : State) : State :=
  ((t.emitHold .released name h).handCredit q).alsoReplied s q r .ok .empty

/-- The hold is let go, told, credited and answered; the entry is still to be stored or removed (R66). -/
def State.letGo (s : State) (q : ClientId) (r : Record) (name : Name) (h : Holder) : State :=
  s.toldReleased q r name h ((s.recordTaken q).openBatch.dropHold h.client h.token)

theorem State.clients_letGo (s : State) (q : ClientId) (r : Record) (name : Name) (h : Holder) :
    (s.letGo q r name h).clients = s.clients := by
  simp [State.letGo, State.toldReleased, State.alsoReplied, State.recordTaken]

theorem State.nextToken_letGo (s : State) (q : ClientId) (r : Record) (name : Name) (h : Holder) :
    (s.letGo q r name h).nextToken = s.nextToken := by
  simp [State.letGo, State.toldReleased, State.alsoReplied, State.recordTaken]

@[simp] theorem State.nextToken_removeEntry (s : State) (name : Name) : (s.removeEntry name).nextToken = s.nextToken := rfl

section
variable {q : ClientId} {s : State} {r : Record} {f : Decode.HoldFields} {e : LockEntry} {i : SlotId} {h : Holder}

theorem releaseFound_eq : releaseFound (s.takenAs q r) { entry := e, slot := i, hold := h } (s.recordTaken q).openBatch =
    AtEntry.holdLeaves { entry := e, state := (s.recordTaken q).openBatch } i h
      (s.toldReleased q r e.name h) (fun _ _ => .cancelled .byRequest) := by
  rw [releaseFound]
  simp only [State.answer_eq]
  rfl

theorem releaseTaken_found (held : s.holdsAt q f.name f.token e i h) {t : State}
    (left : AtEntry.holdLeaves { entry := e, state := (s.recordTaken q).openBatch } i h
      (s.toldReleased q r e.name h) (fun _ _ => .cancelled .byRequest) = t) :
    releaseTaken (s.takenAs q r) f (s.recordTaken q).openBatch = t := by
  rw [releaseTaken, State.findHold_found (s := (s.recordTaken q).openBatch) (c := (s.takenAs q r).client) held]
  exact releaseFound_eq.trans left

theorem exec_release (ready : Ready s q .release r) (hf : Decode.holdFields r = some f) (admits : s.windowAdmits q [f.name])
    (held : s.holdsAt q f.name f.token e i h) {t : State}
    (left : AtEntry.holdLeaves { entry := e, state := (s.recordTaken q).openBatch } i h
      (s.toldReleased q r e.name h) (fun _ _ => .cancelled .byRequest) = t)
    (tokens : t.nextToken ≤ 2 ^ 64) : exec (.release q) s = .next t.closeBatch :=
  takeLockEvent_record Decode.holdFields (fun f => [f.name]) noAdjust releaseTaken f ready hf (by simp [Decode.Opcode.isCommand])
    admits _ (by rw [show noAdjust s.limits f = f from rfl, ite_self]; exact releaseTaken_found held left) tokens

end

theorem State.differsAt_removed {s t : State} {name : Name}
    (table : t.table = s.table.filter (fun e => e.name != name)) : s.differsAt t name none := by
  have lookup : ∀ m, t.entry? m = if m = name then none else s.entry? m := fun m => by
    rw [State.entry?, table]
    exact find_filter_name name m s.table
  exact ⟨by rw [lookup, if_pos rfl], fun m hm => by rw [lookup, if_neg hm]⟩

theorem State.letGo_removed (s : State) (q : ClientId) (r : Record) (name : Name) (h : Holder) :
    ((s.letGo q r name h).removeEntry name).closeBatch =
      { ((s.replied q r .ok .empty).told [h.event .released name, freedEvent name]).mapAccount h.client
            (fun a => a.letGo h.token) with
        table := s.table.filter (fun e => e.name != name), freeEntries := s.freeEntries + 1, clock := (s.forgetEntry name).clock,
        standingQueue := s.standingQueue ++ [.credit q] } := by
  simp only [State.letGo, State.toldReleased, State.removeEntry, State.closeBatch, State.emit, State.emitHold, State.openBatch,
    State.forgetEntry, State.handCredit, State.dropHold, State.setAccount, State.mapAccount, State.withAccount, State.told, State.replied,
    State.alsoReplied, State.answeredTo, State.withRing, State.recordTaken, State.account, State.ring, State.client,
    appendLast_append, closeLast_append]
  rfl

theorem State.letGo_stored (s : State) (q : ClientId) (r : Record) (name : Name) (h : Holder) (d : LockEntry) :
    ((s.letGo q r name h).storeEntry d).closeBatch =
      { ((s.replied q r .ok .empty).told [h.event .released name]).mapAccount h.client (fun a => a.letGo h.token) with
        table := putEntry d s.table, standingQueue := s.standingQueue ++ [.credit q] } := by
  simp only [State.letGo, State.toldReleased, State.storeEntry, State.closeBatch, State.emit, State.emitHold, State.openBatch,
    State.handCredit, State.dropHold, State.setAccount, State.mapAccount, State.withAccount, State.told, State.replied,
    State.alsoReplied, State.answeredTo, State.withRing, State.recordTaken, State.account, State.ring, State.client,
    appendLast_append, closeLast_append]
  rfl

/-- An upgrade of the client `c` ends in the same event (R72). -/
theorem State.letGo_upgradeEnded (s : State) (q : ClientId) (r : Record) (name : Name) (h : Holder) (a : Response) (d : LockEntry) :
    ((((s.letGo q r name h).subWait h.client).answeredTo h.client a).storeEntry d).closeBatch =
      { (((s.replied q r .ok .empty).answeredTo h.client a).told [h.event .released name]).mapAccount h.client
          (fun a => (a.letGo h.token).waited) with
        table := putEntry d s.table, standingQueue := s.standingQueue ++ [.credit q] } := by
  simp only [State.letGo, State.toldReleased, State.storeEntry, State.closeBatch, State.emit, State.emitHold, State.openBatch,
    State.handCredit, State.dropHold, State.subWait, State.setAccount, State.mapAccount, State.withAccount, State.told,
    State.replied, State.alsoReplied, State.answeredTo, State.withRing, State.recordTaken, State.account, State.ring,
    State.client, appendLast_append, closeLast_append, Vector.set_set, Fin.getElem_fin, Vector.getElem_set_self]
  rfl

section
variable {q : ClientId} {s : State} {r : Record} {f : Decode.HoldFields} {e : LockEntry} {i j : SlotId} {h : Holder}

theorem exec_release_last (ready : Ready s q .release r) (hf : Decode.holdFields r = some f) (admits : s.windowAdmits q [f.name])
    (held : s.holdsAt q f.name f.token e i h) (nobody : e.waiters = []) (noUpgrade : e.upgrade = none)
    (alone : ∀ j, j ≠ i → e.slots[j] = none) :
    exec (.release q) s = .next ((s.letGo q r e.name h).removeEntry e.name).closeBatch := by
  have left := AtEntry.holdLeaves_last (s := (s.recordTaken q).openBatch) (h := h)
    (g := s.toldReleased q r e.name h)
    (status := fun _ _ => .cancelled .byRequest) nobody noUpgrade alone
  exact exec_release ready hf admits held (t := (s.letGo q r e.name h).removeEntry e.name) left
    (by simpa [State.nextToken_letGo] using ready.tokens)

theorem exec_release_stuck (ready : Ready s q .release r) (hf : Decode.holdFields r = some f) (admits : s.windowAdmits q [f.name])
    (held : s.holdsAt q f.name f.token e i h) (stuck : s.stuckBehind e.waiters) (noUpgrade : e.upgrade = none)
    (hj : j ≠ i) (other : e.slots[j] ≠ none) :
    exec (.release q) s = .next ((s.letGo q r e.name h).storeEntry (e.setSlot i none)).closeBatch := by
  have left := AtEntry.holdLeaves_stuck (s := (s.recordTaken q).openBatch) (h := h)
    (g := s.toldReleased q r e.name h)
    (status := fun _ _ => .cancelled .byRequest) (stuck.client (s.clients_letGo q r e.name h)) noUpgrade hj other
  exact exec_release ready hf admits held (t := (s.letGo q r e.name h).storeEntry (e.setSlot i none)) left
    (by simpa [State.nextToken_letGo] using ready.tokens)

theorem exec_release_upgrade (ready : Ready s q .release r) (hf : Decode.holdFields r = some f) (admits : s.windowAdmits q [f.name])
    (held : s.holdsAt q f.name f.token e i h) {u : PendingUpgrade} (hu : e.upgrade = some u) (hi : u.slot = i)
    (stuck : s.stuckBehind e.waiters) (hj : j ≠ i) (other : e.slots[j] ≠ none) :
    exec (.release q) s = .next ((((s.letGo q r e.name h).subWait u.client).answeredTo u.client
      { status := .cancelled .byRequest, tag := u.tag, index := u.index, body := .empty }).storeEntry
        { e.setSlot i none with upgrade := none }).closeBatch := by
  have left := AtEntry.holdLeaves_upgrade (s := (s.recordTaken q).openBatch) (h := h)
    (g := s.toldReleased q r e.name h)
    (status := fun _ _ => .cancelled .byRequest) hu hi rfl (by simp) (stuck.client (s.clients_letGo q r e.name h)) hj other
  exact exec_release ready hf admits held (t := (((s.letGo q r e.name h).subWait u.client).answeredTo u.client _).storeEntry _)
    left (by simpa [State.nextToken_letGo] using ready.tokens)

end

end Sys2Proof.Machine

open Sys2Proof Sys2Proof.Machine in
/-- Settles O20: the hold leaves, and the pass finds nobody to let in. -/
theorem releaseWithNobodyWaiting : Obligations.ReleaseWithNobodyWaiting := by
  intro q s r f e i h ready hf admits held gone freed after
  obtain ⟨he, hs, hc, ht, _⟩ := id held
  have hn : e.name = f.name := State.name_of_lookup he
  subst hc
  refine ⟨fun nobody noUpgrade alone => ?_, fun j nobody noUpgrade hj other => ?_, fun j u hu hi hc stuck hj other => ?_⟩
  · have run := exec_release_last ready hf admits held nobody noUpgrade alone
    rw [State.letGo_removed, Holder.event, ht, hn] at run
    exact ⟨_, run, rfl, rfl, rfl, State.differsAt_removed rfl⟩
  · have run := exec_release_stuck ready hf admits held (by rw [nobody]; exact s.stuckBehind_nil) noUpgrade hj other
    rw [State.letGo_stored, Holder.event, ht, hn] at run
    exact ⟨_, run, rfl, rfl, rfl, State.differsAt_storeEntry hn rfl⟩
  · have run := exec_release_upgrade ready hf admits held hu hi stuck hj other
    rw [hc, State.letGo_upgradeEnded, Holder.event, ht, hn] at run
    exact ⟨_, run, rfl, State.differsAt_storeEntry hn rfl⟩
end

section
/-! PROOFS. A hold taken away: by FORCE_RELEASE (R75), by a lease expiry (R84, R85), and by the third step of a teardown (R141). -/

namespace Sys2Proof.Machine

/-- The ring of client `c` after a notice: as it stood, when the notice is dropped (R126, R127, R134). -/
def State.noticedRing (s : State) (c : ClientId) (n : Notice) : RingContext :=
  if (s.client c).muted ∨ (s.client c).swap.isSome then s.ring c else (s.ring c).noticed c n

theorem State.withRing_same (s : State) (c : ClientId) : s.withRing c (s.ring c) = s := by
  rw [State.withRing, RingContext.begins_same _ _ _ rfl]
  simp [State.ring]

theorem State.noticedTo_eq (s : State) (c : ClientId) (n : Notice) : s.noticedTo c n = s.withRing c (s.noticedRing c n) := by
  unfold State.noticedTo State.noticedRing
  split
  · exact (s.withRing_same c).symm
  · rfl

/-! ## A hold that is taken away -/

/-- The loss of a hold is recorded, told to the Watch Filter and noticed to its client (R64, R90). -/
def State.toldLost (kind : EventKind) (name : Name) (h : Holder) (n : Notice) (t : State) : State :=
  ((t.loseToken h.client h.token).emitHold kind name h).noticedTo h.client n

/-- A hold taken away in an event of its own batch; the entry is still to be stored or removed. -/
def State.lostHold (b : State) (kind : EventKind) (name : Name) (h : Holder) (n : Notice) : State :=
  State.toldLost kind name h n (b.openBatch.dropHold h.client h.token)

section
variable (b : State) (kind : EventKind) (name : Name) (h : Holder) (n : Notice)

theorem State.clients_lostHold : (b.lostHold kind name h n).clients = b.clients := by
  simp [State.lostHold, State.toldLost]

theorem State.nextToken_lostHold : (b.lostHold kind name h n).nextToken = b.nextToken := by
  simp [State.lostHold, State.toldLost]

theorem State.lostHold_removed : ((b.lostHold kind name h n).removeEntry name).closeBatch =
    { ((b.noticedTo h.client n).told [h.event kind name, freedEvent name]).mapAccount h.client (fun a => a.lost h.token) with
      table := b.table.filter (fun e => e.name != name), freeEntries := b.freeEntries + 1, clock := (b.forgetEntry name).clock } := by
  simp only [State.lostHold, State.toldLost, State.noticedTo_eq, State.noticedRing, State.removeEntry, State.closeBatch, State.emit,
    State.emitHold, State.openBatch, State.forgetEntry, State.dropHold, State.loseToken, State.setAccount, State.mapAccount,
    State.withAccount, State.told, State.withRing, State.account, State.ring, State.client, appendLast_append, closeLast_append,
    Vector.set_set, Fin.getElem_fin, Vector.getElem_set_self]
  rfl

theorem State.lostHold_stored (d : LockEntry) : ((b.lostHold kind name h n).storeEntry d).closeBatch =
    { ((b.noticedTo h.client n).told [h.event kind name]).mapAccount h.client (fun a => a.lost h.token) with
      table := putEntry d b.table } := by
  simp only [State.lostHold, State.toldLost, State.noticedTo_eq, State.noticedRing, State.storeEntry, State.closeBatch, State.emit,
    State.emitHold, State.openBatch, State.dropHold, State.loseToken, State.setAccount, State.mapAccount,
    State.withAccount, State.told, State.withRing, State.account, State.ring, State.client, appendLast_append, closeLast_append,
    Vector.set_set, Fin.getElem_fin, Vector.getElem_set_self]
  rfl

theorem State.lostHold_upgradeEnded (a : Response) (d : LockEntry) :
    ((((b.lostHold kind name h n).subWait h.client).answeredTo h.client a).storeEntry d).closeBatch =
    { (((b.noticedTo h.client n).answeredTo h.client a).told [h.event kind name]).mapAccount h.client
        (fun a => (a.lost h.token).waited) with table := putEntry d b.table } := by
  simp only [State.lostHold, State.toldLost, State.noticedTo_eq, State.noticedRing, State.storeEntry, State.closeBatch, State.emit,
    State.emitHold, State.openBatch, State.dropHold, State.loseToken, State.subWait, State.setAccount, State.mapAccount,
    State.withAccount, State.told, State.answeredTo, State.withRing, State.account, State.ring, State.client, appendLast_append,
    closeLast_append, Vector.set_set, Fin.getElem_fin, Vector.getElem_set_self]
  rfl

end

/-- An answer that follows touches a ring only, and so stands where the notice stands. -/
theorem State.alsoReplied_removed (u s : State) (q : ClientId) (r : Record) (status : Status) (body : Body) (evs : List WatchEvent)
    (c : ClientId) (g : Account → Account) (table : List LockEntry) (free : Nat) (clock : Clock) :
    { (u.told evs).mapAccount c g with table := table, freeEntries := free, clock := clock }.alsoReplied s q r status body =
      { ((u.alsoReplied s q r status body).told evs).mapAccount c g with
        table := table, freeEntries := free, clock := clock } := rfl

@[inherit_doc State.alsoReplied_removed]
theorem State.alsoReplied_stored (u s : State) (q : ClientId) (r : Record) (status : Status) (body : Body) (evs : List WatchEvent)
    (c : ClientId) (g : Account → Account) (table : List LockEntry) :
    { (u.told evs).mapAccount c g with table := table }.alsoReplied s q r status body =
      { ((u.alsoReplied s q r status body).told evs).mapAccount c g with table := table } := rfl

section
variable {b : State} {e : LockEntry} {i j : SlotId} {h : Holder} {n : Notice} {kind : EventKind} {status : State → ClientId → Status}

theorem AtEntry.lostHold_last (nobody : e.waiters = []) (noUpgrade : e.upgrade = none) (alone : ∀ j, j ≠ i → e.slots[j] = none) :
    AtEntry.holdLeaves { entry := e, state := b.openBatch } i h (State.toldLost kind e.name h n) status =
      (b.lostHold kind e.name h n).removeEntry e.name := AtEntry.holdLeaves_last nobody noUpgrade alone

theorem AtEntry.lostHold_stuck (stuck : b.stuckBehind e.waiters) (noUpgrade : e.upgrade = none) (hj : j ≠ i)
    (other : e.slots[j] ≠ none) :
    AtEntry.holdLeaves { entry := e, state := b.openBatch } i h (State.toldLost kind e.name h n) status =
      (b.lostHold kind e.name h n).storeEntry (e.setSlot i none) :=
  AtEntry.holdLeaves_stuck (stuck.client (b.clients_lostHold kind e.name h n)) noUpgrade hj other

theorem AtEntry.lostHold_upgrade {u : PendingUpgrade} (hu : e.upgrade = some u) (hi : u.slot = i) {x : Status}
    (hx : status (b.lostHold kind e.name h n) u.client = x) (late : x ≠ .timeout) (stuck : b.stuckBehind e.waiters) (hj : j ≠ i)
    (other : e.slots[j] ≠ none) :
    AtEntry.holdLeaves { entry := e, state := b.openBatch } i h (State.toldLost kind e.name h n) status =
      (((b.lostHold kind e.name h n).subWait u.client).answeredTo u.client
        { status := x, tag := u.tag, index := u.index, body := .empty }).storeEntry { e.setSlot i none with upgrade := none } :=
  AtEntry.holdLeaves_upgrade hu hi hx late (stuck.client (b.clients_lostHold kind e.name h n)) hj other

end

/-! ## FORCE_RELEASE -/

theorem LockEntry.holderByToken_eq {e : LockEntry} {i : SlotId} {h : Holder} (hs : e.slots[i] = some h)
    (only : ∀ (j : SlotId) (k : Holder), e.slots[j] = some k → k.token = h.token → j = i) :
    e.holderByToken? h.token = some (i, h) :=
  LockEntry.find_holders hs (by simp) (fun j k hj hk => by
    have := fun same => Fin.ne_of_lt hj (only j k hk same)
    simpa using this)

section
variable {s t : State} {r : Record} {f : Decode.HoldFields} {e : LockEntry} {i j : SlotId} {h : Holder}

/-- A revocation is a hold that leaves (R75, R141). -/
theorem AtEntry.revoke_eq (status : State → ClientId → Status) : AtEntry.revoke { entry := e, state := s } i h status =
    AtEntry.holdLeaves { entry := e, state := s } i h
      (State.toldLost .revoked e.name h (.revoked e.name h.token h.tag)) status := by
  rw [AtEntry.revoke]
  simp only [State.notify_eq]
  rfl

theorem State.findToken_eq (he : s.entry? f.name = some e) (hs : e.slots[i] = some h) (ht : h.token = f.token)
    (only : ∀ (j : SlotId) (k : Holder), e.slots[j] = some k → k.token = f.token → j = i) :
    s.findToken f.name f.token = some { entry := e, slot := i, hold := h } := by
  rw [← ht] at only ⊢
  rw [State.findToken, he]
  dsimp only
  rw [LockEntry.holderByToken_eq hs only]

theorem State.findToken_none (none : ∀ (e : LockEntry) (i : SlotId) (h : Holder), s.entry? f.name = some e →
    e.slots[i] = some h → h.token ≠ f.token) : s.findToken f.name f.token = .none := by
  rw [State.findToken]
  cases he : s.entry? f.name with
  | none => rfl
  | some e =>
    have absent : e.holderByToken? f.token = .none :=
      LockEntry.find_holders_none fun i k hk => by simpa using none e i k he hk
    dsimp only
    rw [absent]

theorem exec_forceRelease_notFound (ready : Ready s 0 .forceRelease r) (hf : Decode.holdFields r = some f)
    (none : ∀ (e : LockEntry) (i : SlotId) (h : Holder), s.entry? f.name = some e → e.slots[i] = some h → h.token ≠ f.token) :
    exec (.forceRelease 0) s = .next (s.replied 0 r .notFound .empty) := by
  have answered : forceReleaseTaken (s.takenAs 0 r) f (s.recordTaken 0).openBatch =
      (s.recordTaken 0).openBatch.alsoReplied s 0 r .notFound .empty := by
    rw [forceReleaseTaken, State.findToken_none (s := (s.recordTaken 0).openBatch) none]
    exact State.answer_eq _ _ _ _ _
  refine (takeLockEvent_record Decode.holdFields noNames noAdjust forceReleaseTaken f ready hf (fun _ => rfl)
    (by simp [State.windowAdmits, noNames]) _ ((congrArg (forceReleaseTaken _ · _) (ite_self _)).trans answered)
      ready.tokens).trans (congrArg Host.Outcome.next ?_)
  exact (congrArg State.closeBatch (answeredTo_openBatch _ _ _)).trans (closeBatch_openBatch _)

/-- A found hold is revoked, and the command answered last (R75). -/
theorem exec_forceRelease_found (ready : Ready s 0 .forceRelease r) (hf : Decode.holdFields r = some f)
    (he : s.entry? f.name = some e) (hs : e.slots[i] = some h) (ht : h.token = f.token)
    (only : ∀ (j : SlotId) (k : Holder), e.slots[j] = some k → k.token = f.token → j = i)
    (left : AtEntry.holdLeaves { entry := e, state := (s.recordTaken 0).openBatch } i h
      (State.toldLost .revoked e.name h (.revoked e.name h.token h.tag)) (fun _ _ => .cancelled .forced) = t)
    (tokens : t.nextToken = s.nextToken) : exec (.forceRelease 0) s = .next (t.closeBatch.alsoReplied s 0 r .ok .empty) := by
  have taken : forceReleaseTaken (s.takenAs 0 r) f (s.recordTaken 0).openBatch = t.alsoReplied s 0 r .ok .empty := by
    rw [forceReleaseTaken, State.findToken_eq (s := (s.recordTaken 0).openBatch) he hs ht only]
    dsimp only
    rw [AtEntry.revoke_eq, left, State.answer_eq]
  refine (takeLockEvent_record Decode.holdFields noNames noAdjust forceReleaseTaken f ready hf (fun _ => rfl)
    (by simp [State.windowAdmits, noNames]) _ ((congrArg (forceReleaseTaken _ · _) (ite_self _)).trans taken) ?_).trans rfl
  exact (show (t.alsoReplied s 0 r .ok .empty).nextToken = s.nextToken from tokens) ▸ ready.tokens

end

end Sys2Proof.Machine

open Sys2Proof Sys2Proof.Machine in
/-- Settles O26: the revocation leaves what a lost hold leaves, and the OK is answered after it. -/
theorem forceReleaseRevokes : Obligations.ForceReleaseRevokes := by
  refine fun s r f ready hf => ⟨exec_forceRelease_notFound ready hf, fun e i h he hs ht only => ?_⟩
  have hn : e.name = f.name := State.name_of_lookup he
  refine ⟨fun nobody noUpgrade alone => ?_, fun j nobody noUpgrade hj other => ?_, fun j u hu hi hc stuck hj other => ?_⟩
  · have run := exec_forceRelease_found ready hf he hs ht only (AtEntry.lostHold_last nobody noUpgrade alone)
      (by rw [State.nextToken_removeEntry, State.nextToken_lostHold]; rfl)
    rw [State.lostHold_removed, State.alsoReplied_removed, Holder.event, ht, hn] at run
    exact ⟨_, run, rfl, State.differsAt_removed rfl⟩
  · have run := exec_forceRelease_found ready hf he hs ht only
      (AtEntry.lostHold_stuck (by rw [nobody]; exact State.stuckBehind_nil _) noUpgrade hj other)
      (by rw [State.nextToken_storeEntry, State.nextToken_lostHold]; rfl)
    rw [State.lostHold_stored, State.alsoReplied_stored, Holder.event, ht, hn] at run
    exact ⟨_, run, rfl, State.differsAt_storeEntry hn rfl⟩
  · have run := exec_forceRelease_found ready hf he hs ht only
      (AtEntry.lostHold_upgrade hu hi rfl (by simp) (stuck.client rfl) hj other)
      (by simp [State.nextToken_lostHold, State.recordTaken])
    rw [hc, State.lostHold_upgradeEnded, State.alsoReplied_stored, Holder.event, ht, hn] at run
    exact ⟨_, run, rfl, State.differsAt_storeEntry hn rfl⟩
end

section
/-! PROOFS. The lease expiry that takes a hold away (R84, R85), and the third step of a teardown (R141). -/

namespace Sys2Proof.Machine

/-! ## Lease expiry -/

/-- The expiry of a lease is a loss with a charge (R84). -/
def State.toldExpired (name : Name) (h : Holder) (t : State) : State :=
  (State.toldLost .expired name h (.expired name h.token h.tag) t).charged h.client 16

section
variable {s t : State} {e : LockEntry} {i j : SlotId} {h : Holder}

theorem State.handCharge_noticedTo (s : State) (c d : ClientId) (amount : Nat) (n : Notice) :
    (s.handCharge c amount).noticedTo d n = (s.noticedTo d n).charged c amount := by
  simp only [State.noticedTo_eq]
  rfl

theorem leaseExpiryAt_eq (he : s.entry? e.name = some e) (hs : e.slots[i] = some h) (raised : h.expiryRaised = true)
    (only : ∀ (j : SlotId) (k : Holder), e.slots[j] = some k → k.token = h.token → j = i) :
    leaseExpiryAt e.name h.token s = some (AtEntry.holdLeaves { entry := e, state := s } i h (State.toldExpired e.name h)
      (fun u c => u.endingFor c .leaseLost)) := by
  rw [leaseExpiryAt, he]
  dsimp only
  rw [LockEntry.holderByToken_eq hs only, Option.filter_some, if_pos raised]
  dsimp only
  simp only [State.notify_eq, State.handCharge_noticedTo]
  rfl

theorem exec_leaseExpiry (running : s.engine = .running) (tokens : s.nextToken ≤ 2 ^ 64) (he : s.entry? e.name = some e)
    (hs : e.slots[i] = some h) (raised : h.expiryRaised = true)
    (only : ∀ (j : SlotId) (k : Holder), e.slots[j] = some k → k.token = h.token → j = i)
    (left : AtEntry.holdLeaves { entry := e, state := s.quiet.openBatch } i h (State.toldExpired e.name h)
      (fun u c => u.endingFor c .leaseLost) = t) (same : t.nextToken = s.nextToken) :
    exec (.leaseExpiry e.name h.token) s = .next t.closeBatch :=
  takeLockEvent_running s t _ running ((leaseExpiryAt_eq (s := s.quiet.openBatch) he hs raised only).trans (congrArg some left))
    (same ▸ tokens)

/-- The state in which the hold has expired; the entry is still to be stored or removed. -/
def State.expiredHold (b : State) (name : Name) (h : Holder) : State :=
  (b.lostHold .expired name h (.expired name h.token h.tag)).charged h.client 16

theorem State.nextToken_expiredHold (b : State) (name : Name) (h : Holder) : (b.expiredHold name h).nextToken = b.nextToken :=
  b.nextToken_lostHold _ _ _ _

theorem State.clients_expiredHold (b : State) (name : Name) (h : Holder) : (b.expiredHold name h).clients = b.clients :=
  b.clients_lostHold _ _ _ _

theorem State.charged_removed (u : State) (c : ClientId) (amount : Nat) (name : Name) :
    ((u.charged c amount).removeEntry name).closeBatch = (u.removeEntry name).closeBatch.charged c amount := rfl

theorem State.charged_stored (u : State) (c : ClientId) (amount : Nat) (d : LockEntry) :
    ((u.charged c amount).storeEntry d).closeBatch = (u.storeEntry d).closeBatch.charged c amount := rfl

theorem State.charged_upgradeEnded (u : State) (c d : ClientId) (amount : Nat) (a : Response) (x : LockEntry) :
    ((((u.charged c amount).subWait d).answeredTo d a).storeEntry x).closeBatch =
      (((u.subWait d).answeredTo d a).storeEntry x).closeBatch.charged c amount := rfl

theorem State.charged_frameRemoved (v : State) (c : ClientId) (amount : Nat) (table : List LockEntry) (free : Nat) (clock : Clock) :
    { v with table := table, freeEntries := free, clock := clock }.charged c amount =
      { v.charged c amount with table := table, freeEntries := free, clock := clock } := rfl

theorem State.charged_frameStored (v : State) (c : ClientId) (amount : Nat) (table : List LockEntry) :
    { v with table := table }.charged c amount = { v.charged c amount with table := table } := rfl

theorem exec_leaseExpiry_last (running : s.engine = .running) (tokens : s.nextToken ≤ 2 ^ 64) (he : s.entry? e.name = some e)
    (hs : e.slots[i] = some h) (raised : h.expiryRaised = true)
    (only : ∀ (j : SlotId) (k : Holder), e.slots[j] = some k → k.token = h.token → j = i)
    (nobody : e.waiters = []) (noUpgrade : e.upgrade = none) (alone : ∀ j, j ≠ i → e.slots[j] = none) :
    exec (.leaseExpiry e.name h.token) s = .next ((s.quiet.expiredHold e.name h).removeEntry e.name).closeBatch := by
  have left := AtEntry.holdLeaves_last (s := s.quiet.openBatch) (h := h) (g := State.toldExpired e.name h)
    (status := fun u c => u.endingFor c .leaseLost) nobody noUpgrade alone
  exact exec_leaseExpiry running tokens he hs raised only left (by simp [State.nextToken_expiredHold])

theorem exec_leaseExpiry_stuck (running : s.engine = .running) (tokens : s.nextToken ≤ 2 ^ 64) (he : s.entry? e.name = some e)
    (hs : e.slots[i] = some h) (raised : h.expiryRaised = true)
    (only : ∀ (j : SlotId) (k : Holder), e.slots[j] = some k → k.token = h.token → j = i)
    (stuck : s.stuckBehind e.waiters) (noUpgrade : e.upgrade = none) (hj : j ≠ i) (other : e.slots[j] ≠ none) :
    exec (.leaseExpiry e.name h.token) s =
      .next ((s.quiet.expiredHold e.name h).storeEntry (e.setSlot i none)).closeBatch := by
  have left := AtEntry.holdLeaves_stuck (s := s.quiet.openBatch) (h := h) (g := State.toldExpired e.name h)
    (status := fun u c => u.endingFor c .leaseLost) (stuck.client (s.quiet.clients_expiredHold e.name h)) noUpgrade hj other
  exact exec_leaseExpiry running tokens he hs raised only left (by simp [State.nextToken_expiredHold])

theorem State.endingFor_expiredHold (b : State) (name : Name) (h : Holder) (c : ClientId) (status : Status) :
    (b.expiredHold name h).endingFor c status = b.endingFor c status := by
  rw [State.endingFor, State.client, State.clients_expiredHold]
  rfl

theorem exec_leaseExpiry_upgrade (running : s.engine = .running) (tokens : s.nextToken ≤ 2 ^ 64) (he : s.entry? e.name = some e)
    (hs : e.slots[i] = some h) (raised : h.expiryRaised = true)
    (only : ∀ (j : SlotId) (k : Holder), e.slots[j] = some k → k.token = h.token → j = i)
    {u : PendingUpgrade} (hu : e.upgrade = some u) (hi : u.slot = i) {x : Status} (hx : s.endingFor u.client .leaseLost = x)
    (late : x ≠ .timeout) (stuck : s.stuckBehind e.waiters) (hj : j ≠ i) (other : e.slots[j] ≠ none) :
    exec (.leaseExpiry e.name h.token) s =
      .next ((((s.quiet.expiredHold e.name h).subWait u.client).answeredTo u.client
        { status := x, tag := u.tag, index := u.index, body := .empty }).storeEntry
          { e.setSlot i none with upgrade := none }).closeBatch := by
  have left := AtEntry.holdLeaves_upgrade (s := s.quiet.openBatch) (h := h) (g := State.toldExpired e.name h)
    (status := fun u c => u.endingFor c .leaseLost) hu hi ((s.quiet.endingFor_expiredHold e.name h _ _).trans hx) late
    (stuck.client (s.quiet.clients_expiredHold e.name h)) hj other
  exact exec_leaseExpiry running tokens he hs raised only left (by simp [State.nextToken_expiredHold])

end

/-! ## The third step of a teardown -/

section
variable {s t : State} {c : ClientId} {item : HoldItem} {rest : List HoldItem} {e : LockEntry} {i j : SlotId} {h : Holder}

theorem State.tearingDown_true (teardown : (s.client c).teardown ≠ none) (idle : ∀ r, (s.ring c).fetch ≠ .inHand r) :
    s.tearingDown c = true := by
  rw [State.tearingDown, Option.isSome_iff_ne_none.mpr teardown]
  cases hf : (s.ring c).fetch with
  | inHand r => exact absurd hf (idle r)
  | _ => rfl

theorem revokeHoldStep_found (down : s.tearingDown c = true) (waits : (s.account c).waits = 0)
    (holds : (s.account c).holds = item :: rest) (held : s.holdsAt c item.name item.token e i h) :
    revokeHoldStep c s = some (AtEntry.holdLeaves { entry := e, state := s } i h
      (State.toldLost .revoked e.name h (.revoked e.name h.token h.tag)) (fun _ _ => .cancelled .isolation)) := by
  obtain ⟨he, hs, hc, ht, low⟩ := held
  have found : e.holders.find? (fun p => p.2.token == item.token && p.2.client == c) = some (i, h) :=
    LockEntry.find_holders hs (by simp [hc, ht]) (fun j k hj hk => by
      have := low j k hj hk
      rw [Bool.and_eq_false_iff, beq_eq_false_iff_ne, beq_eq_false_iff_ne]
      tauto)
  rw [revokeHoldStep, if_pos (by rw [down, waits]; rfl), holds]
  dsimp only
  rw [he]
  dsimp only
  rw [found, ← AtEntry.revoke_eq]

theorem revokeHoldStep_lost (down : s.tearingDown c = true) (waits : (s.account c).waits = 0)
    (holds : (s.account c).holds = item :: rest) (lost : s.holdsNot c item.name item.token) :
    revokeHoldStep c s = some (s.dropHold c item.token) := by
  rw [revokeHoldStep, if_pos (by rw [down, waits]; rfl), holds]
  dsimp only
  cases he : s.entry? item.name with
  | none => rfl
  | some e =>
    have absent : e.holders.find? (fun p => p.2.token == item.token && p.2.client == c) = none :=
      LockEntry.find_holders_none fun i k hk => by
        have := lost e i k he hk
        rw [Bool.and_eq_false_iff, beq_eq_false_iff_ne, beq_eq_false_iff_ne]
        tauto
    dsimp only
    rw [absent]

end

end Sys2Proof.Machine

open Sys2Proof Sys2Proof.Machine in
/-- Settles O33: the expiry leaves what a lost hold leaves, with its charge. -/
theorem leaseExpiryTakesTheHold : Obligations.LeaseExpiryTakesTheHold := by
  intro s name e i h running tokens he hs raised only gone freed noticed after
  obtain rfl : e.name = name := State.name_of_lookup he
  refine ⟨fun nobody noUpgrade alone => ?_, fun j nobody noUpgrade hj other => ?_, fun j u hu hi hc stuck hj other => ?_⟩
  · have run := exec_leaseExpiry_last running tokens he hs raised only nobody noUpgrade alone
    rw [State.expiredHold, State.charged_removed, State.lostHold_removed, State.charged_frameRemoved] at run
    exact ⟨_, run, rfl, rfl, rfl, State.differsAt_removed rfl⟩
  · have run := exec_leaseExpiry_stuck running tokens he hs raised only (by rw [nobody]; exact s.stuckBehind_nil) noUpgrade hj other
    rw [State.expiredHold, State.charged_stored, State.lostHold_stored, State.charged_frameStored] at run
    refine ⟨_, run, rfl, ?_, ?_, State.differsAt_storeEntry rfl rfl⟩
    · simp [State.charged, State.mapAccount, State.withAccount, State.told]
    · simp [State.charged, State.mapAccount, State.withAccount, State.told]
  · intro answer
    have answers : ∀ x, s.endingFor u.client .leaseLost = x → x ≠ .timeout → answer x := fun x hx late => by
      have run := exec_leaseExpiry_upgrade running tokens he hs raised only hu hi hx late stuck hj other
      rw [hc, State.expiredHold, State.charged_upgradeEnded, State.lostHold_upgradeEnded, State.charged_frameStored] at run
      exact ⟨_, run, rfl, State.differsAt_storeEntry rfl rfl⟩
    rw [State.endingFor, hc] at answers
    refine ⟨fun fit => answers _ ?_ (by simp), fun unfit => answers _ ?_ (by simp)⟩
    · rw [if_neg (by rw [(s.unfit_iff _).mpr fit]; decide)]
    · rw [if_pos (State.unfit_of_not_fit unfit)]

open Sys2Proof Sys2Proof.Machine in
/-- Settles O54: the step leaves what a lost hold leaves, and takes a listed hold that no entry carries out of the list. -/
theorem teardownRevokesTheOldestHold : Obligations.TeardownRevokesTheOldestHold := by
  intro s c item rest running tokens teardown idle waits holds
  have down : s.quiet.openBatch.tearingDown c = true := State.tearingDown_true teardown idle
  refine ⟨fun e i h held => ?_, fun lost => ?_⟩
  · obtain ⟨he, hs, hc, ht, _⟩ := id held
    have hn : e.name = item.name := State.name_of_lookup he
    have step : ∀ t, AtEntry.holdLeaves { entry := e, state := s.quiet.openBatch } i h
        (State.toldLost .revoked e.name h (.revoked e.name h.token h.tag)) (fun _ _ => .cancelled .isolation) = t →
        t.nextToken = s.nextToken → exec (.teardownRevokeHold c) s = .next t.closeBatch := fun t left same =>
      takeLockEvent_running s t _ running ((revokeHoldStep_found down waits holds held).trans (congrArg some left)) (same ▸ tokens)
    subst hc
    refine ⟨fun nobody noUpgrade alone => ?_, fun j nobody noUpgrade hj other => ?_, fun j u hu hi hc stuck hj other => ?_⟩
    · have run := step _ (AtEntry.lostHold_last nobody noUpgrade alone)
        (by rw [State.nextToken_removeEntry, State.nextToken_lostHold]; rfl)
      rw [State.lostHold_removed, Holder.event, ht, hn] at run
      exact ⟨_, run, rfl, State.differsAt_removed rfl⟩
    · have run := step _ (AtEntry.lostHold_stuck (by rw [nobody]; exact State.stuckBehind_nil _) noUpgrade hj other)
        (by rw [State.nextToken_storeEntry, State.nextToken_lostHold]; rfl)
      rw [State.lostHold_stored, Holder.event, ht, hn] at run
      exact ⟨_, run, rfl, State.differsAt_storeEntry hn rfl⟩
    · have run := step _ (AtEntry.lostHold_upgrade hu hi rfl (by simp) (stuck.client rfl) hj other)
        (by simp [State.nextToken_lostHold])
      rw [hc, State.lostHold_upgradeEnded, Holder.event, ht, hn] at run
      exact ⟨_, run, rfl, State.differsAt_storeEntry hn rfl⟩
  · have run := takeLockEvent_running s (s.quiet.openBatch.dropHold c item.token) _ running
      (revokeHoldStep_lost down waits holds lost) tokens
    refine run.trans (congrArg Host.Outcome.next ?_)
    exact (closeBatch_openBatch (s.quiet.dropHold c item.token)).trans rfl
end

section
/-! PROOFS. What the grant pass does to a waiter that it grants (R48, R50), told in the words of the claims. -/

namespace Sys2Proof.Machine

/-- The answer that grants a waiter its hold (R50). -/
def Waiter.grantedAnswer (x : Waiter) (token : Token) : Response :=
  { status := .granted, tag := x.tag, index := x.index, body := .granted token x.lease x.waited (some x.report) 1 }

/-- What the Watch Filter is told of a grant to a waiter (R90). -/
def Waiter.grantedEvent (x : Waiter) (name : Name) (token : Token) : WatchEvent :=
  { kind := .granted, name := name, client := x.client, token := token, mode := x.mode }

/-- A waiter is granted: token, hold list, record back in the pool, answer and watch event, in the order of R50. -/
def State.grantedWaiter (s : State) (name : Name) (x : Waiter) : State :=
  (((s.drawToken.appendHold x.client { name := name, token := s.token }).returnWaiter x).answeredTo x.client
    (x.grantedAnswer s.token)).emit (x.grantedEvent name s.token)

/-- The counters and the watch events of an event in progress, beside the rest of the block. -/
def State.withBooks (u : State) (n p : Nat) (ws : List (List WatchEvent)) : State :=
  { u with nextToken := n, poolFree := p, watchEvents := ws }

/-- The rest of the block after a waiter is granted: its answer, and its account with the hold and one wait less. -/
def State.grantTo (u : State) (name : Name) (token : Token) (x : Waiter) : State :=
  (u.answeredTo x.client (x.grantedAnswer token)).mapAccount x.client (fun a => (a.granted name token).waited)

theorem State.grantedWaiter_withBooks (u : State) (n p : Nat) (ws : List (List WatchEvent)) (evs : List WatchEvent) (name : Name)
    (x : Waiter) : (u.withBooks n p (ws ++ [evs])).grantedWaiter name x =
      (u.grantTo name (BitVec.ofNat 64 n) x).withBooks (n + 1) (p + 1) (ws ++ [evs ++ [x.grantedEvent name (BitVec.ofNat 64 n)]]) := by
  simp only [State.grantedWaiter, State.grantTo, State.withBooks, State.drawToken, State.appendHold, State.returnWaiter, State.subWait,
    State.setAccount, State.mapAccount, State.withAccount, State.account, State.answeredTo, State.withRing, State.ring, State.client,
    State.emit, State.token, appendLast_append, Vector.set_set, Fin.getElem_fin, Vector.getElem_set_self]
  rfl

@[simp] theorem State.nextToken_grantedWaiter (s : State) (name : Name) (x : Waiter) :
    (s.grantedWaiter name x).nextToken = s.nextToken + 1 := by
  simp [State.grantedWaiter, State.returnWaiter, State.drawToken]

theorem State.withBooks_stored (u : State) (n p : Nat) (ws : List (List WatchEvent)) (evs : List WatchEvent) (some : evs ≠ [])
    (d : LockEntry) : ((u.withBooks n p (ws ++ [evs])).storeEntry d).closeBatch =
      { u with table := putEntry d u.table, nextToken := n, poolFree := p, watchEvents := ws ++ [evs] } := by
  simp only [State.withBooks, State.storeEntry, State.closeBatch, closeLast_append, if_neg some]

@[simp] theorem State.table_grantTo (u : State) (name : Name) (token : Token) (x : Waiter) :
    (u.grantTo name token x).table = u.table := rfl

theorem State.account_grantTo_other (u : State) (name : Name) (token : Token) (x : Waiter) {c : ClientId} (h : c ≠ x.client) :
    (u.grantTo name token x).account c = u.account c := by
  have apart : x.client.val ≠ c.val := fun k => h (Fin.ext k.symm)
  simp [State.grantTo, State.mapAccount, State.withAccount, State.account, Vector.getElem_set_ne, apart]

/-! ## One grant of the pass -/

section
variable {w : AtEntry} {x : Waiter} {rest : List Waiter} {i : SlotId}

theorem AtEntry.grantWaiter_eq (free : w.entry.lowestFree i) : w.grantWaiter x =
    { entry := { w.entry.setSlot i (some (grantedHold x.client w.state.nextToken x.mode x.lease x.tag)) with
                 mode := if w.entry.holds = 0 then x.mode else w.entry.mode },
      state := w.state.grantedWaiter w.entry.name x } := by
  rw [AtEntry.grantWaiter, AtEntry.grantHold_eq free]
  simp only [State.respond_eq]
  rfl

theorem passWaiters_grant (fit : w.state.fit x.client) (grantable : w.entry.headGrantable x.mode = true)
    (room : w.state.holdRoom x.client) : passWaiters (x :: rest) w = passWaiters rest (w.grantWaiter x) := by
  rw [passWaiters, if_neg (by rw [(w.state.unfit_iff _).mpr fit]; decide), if_pos grantable,
    if_neg (by rw [(w.state.atHoldQuota_iff _).mpr room]; decide)]

end

end Sys2Proof.Machine
end

section
/-! PROOFS. A RELEASE that lets somebody in: the head waiter of a lock left without a holder (R45, R48, R50), or the holder of the
pending upgrade left alone (R46). -/

namespace Sys2Proof.Machine

/-! ## The pass at an entry without a holder -/

section
variable {w : AtEntry} {x : Waiter} {rest : List Waiter}

theorem LockEntry.lowestFree_zero {e : LockEntry} (gone : e.holds = 0) : e.lowestFree 0 :=
  ⟨(e.holds_zero_iff).mp gone 0, fun j hj => absurd hj (Fin.not_lt_zero j)⟩

theorem LockEntry.holds_seated {e : LockEntry} {i : SlotId} {h : Holder} : (e.setSlot i (some h)).holds ≠ 0 :=
  Nat.one_le_iff_ne_zero.mp (((e.setSlot i (some h)).holds_pos_iff).mpr ⟨i, h, e.slots_setSlot_self i _⟩)

theorem LockEntry.headGrantable_setMode {e : LockEntry} (held : e.holds ≠ 0) {m n : Mode} (h : m = .exclusive ∨ n = .exclusive) :
    ¬ { e with mode := m }.headGrantable n = true := by
  rw [LockEntry.headGrantable_iff]
  rintro (gone | ⟨hn, hm, _⟩)
  · exact held gone
  · rcases h with h | h
    · rw [show m = Mode.shared from hm] at h; cases h
    · rw [hn] at h; cases h

theorem AtEntry.close_held (held : w.entry.holds ≠ 0) : w.close = w.state.storeEntry w.entry := by
  rw [AtEntry.close, LockEntry.holderCount_eq, if_neg held]

/-- The entry without a holder takes the mode of the grant (R6). -/
theorem AtEntry.grantWaiter_first (gone : w.entry.holds = 0) : w.grantWaiter x =
    { entry := { w.entry.setSlot 0 (some (grantedHold x.client w.state.nextToken x.mode x.lease x.tag)) with mode := x.mode },
      state := w.state.grantedWaiter w.entry.name x } := by
  rw [AtEntry.grantWaiter_eq (LockEntry.lowestFree_zero gone), if_pos gone]

/-- The head waiter is granted, and the next one is not grantable beside it. -/
theorem AtEntry.passAndClose_grantsHead (gone : w.entry.holds = 0) (noUpgrade : w.entry.upgrade = none)
    (hw : w.entry.waiters = x :: rest) (fit : w.state.fit x.client) (room : w.state.holdRoom x.client)
    (next : ∀ y, rest.head? = some y → w.state.fit y.client ∧ (x.mode = .exclusive ∨ y.mode = .exclusive)) :
    w.passAndClose = (w.state.grantedWaiter w.entry.name x).storeEntry
      { w.entry.setSlot 0 (some (grantedHold x.client w.state.nextToken x.mode x.lease x.tag)) with
        mode := x.mode, waiters := rest } := by
  have grantable : w.entry.headGrantable x.mode = true := (w.entry.headGrantable_iff _).mpr (.inl gone)
  have pass : w.grantPass = (w.grantWaiter x).queue rest := by
    rw [AtEntry.grantPass, noUpgrade, hw]
    dsimp only
    rw [passWaiters_grant fit grantable room]
    refine passWaiters_stop fun y hy => ?_
    rw [AtEntry.grantWaiter_first gone]
    exact ⟨(next y hy).1, LockEntry.headGrantable_setMode LockEntry.holds_seated (next y hy).2⟩
  rw [AtEntry.passAndClose, pass, AtEntry.grantWaiter_first gone]
  exact AtEntry.close_held LockEntry.holds_seated

end

/-! ## RELEASE by the sole holder -/

/-- The rest of the block after a RELEASE, its counters and watch events aside (R66). -/
def State.released (s : State) (q : ClientId) (r : Record) (h : Holder) : State :=
  { (s.replied q r .ok .empty).mapAccount h.client (fun a => a.letGo h.token) with standingQueue := s.standingQueue ++ [.credit q] }

@[simp] theorem State.table_released (s : State) (q : ClientId) (r : Record) (h : Holder) : (s.released q r h).table = s.table := rfl

theorem State.letGo_withBooks (s : State) (q : ClientId) (r : Record) (name : Name) (h : Holder) :
    s.letGo q r name h =
      (s.released q r h).withBooks s.nextToken s.poolFree (s.watchEvents ++ [[h.event .released name]]) := by
  simp only [State.letGo, State.toldReleased, State.released, State.withBooks, State.emit, State.emitHold, State.openBatch,
    State.handCredit, State.dropHold, State.setAccount, State.mapAccount, State.withAccount, State.replied, State.alsoReplied,
    State.answeredTo, State.withRing, State.recordTaken, State.account, State.ring, State.client, appendLast_append]
  rfl

theorem State.holdRoom_letGo {s : State} {q : ClientId} {r : Record} {name : Name} {h : Holder} {c : ClientId} (room : s.holdRoom c)
    (apart : c ≠ h.client) : (s.letGo q r name h).holdRoom c := by
  have other : h.client.val ≠ c.val := fun k => apart (Fin.ext k.symm)
  have same : (s.letGo q r name h).account c = s.account c := by
    rw [State.letGo_withBooks]
    simp [State.withBooks, State.released, State.mapAccount, State.withAccount, State.account, State.replied, State.recordTaken,
      Vector.getElem_set_ne, other]
  rw [State.holdRoom, State.client, State.clients_letGo, same]
  exact room

section
variable {q : ClientId} {s : State} {r : Record} {f : Decode.HoldFields} {e : LockEntry} {i : SlotId} {h : Holder} {x : Waiter}
  {rest : List Waiter}

/-- With no pending upgrade, the hold leaves and the pass runs. -/
theorem AtEntry.holdLeaves_noUpgrade {g : State → State} {status : State → ClientId → Status} (noUpgrade : e.upgrade = none) :
    AtEntry.holdLeaves { entry := e, state := s } i h g status =
      AtEntry.passAndClose { entry := e.setSlot i none, state := g (s.dropHold h.client h.token) } := by
  have same := AtEntry.endUpgradeOfSlot_none (w := ({ entry := e, state := s : AtEntry }.removeHold i h).onState g) noUpgrade i status
  rw [AtEntry.holdLeaves, same]
  rfl

theorem exec_release_grantsHead (ready : Ready s q .release r) (hf : Decode.holdFields r = some f)
    (admits : s.windowAdmits q [f.name]) (held : s.holdsAt q f.name f.token e i h) (sole : e.sole i h)
    (noUpgrade : e.upgrade = none) (hw : e.waiters = x :: rest) (apart : x.client ≠ h.client) (fit : s.fit x.client)
    (room : s.holdRoom x.client) (tokens : s.nextToken < 2 ^ 64)
    (next : ∀ y, rest.head? = some y → s.fit y.client ∧ (x.mode = .exclusive ∨ y.mode = .exclusive)) :
    exec (.release q) s = .next (((s.letGo q r e.name h).grantedWaiter e.name x).storeEntry
      { (e.setSlot i none).setSlot 0 (some (grantedHold x.client s.nextToken x.mode x.lease x.tag)) with
        mode := x.mode, waiters := rest }).closeBatch := by
  have fits : ∀ c, s.fit c → (s.letGo q r e.name h).fit c := fun c k => by
    simpa only [State.fit, State.client, State.clients_letGo] using k
  have pass := AtEntry.passAndClose_grantsHead (w := { entry := e.setSlot i none, state := s.letGo q r e.name h })
    (LockEntry.holds_vacated_zero sole.2) noUpgrade hw (fits _ fit) (State.holdRoom_letGo room apart)
    (fun y hy => ⟨fits _ (next y hy).1, (next y hy).2⟩)
  rw [State.nextToken_letGo] at pass
  refine exec_release ready hf admits held ((AtEntry.holdLeaves_noUpgrade noUpgrade).trans pass) ?_
  rw [State.nextToken_storeEntry, State.nextToken_grantedWaiter, State.nextToken_letGo]
  exact tokens

end

theorem LockEntry.slots_soleVacated {e : LockEntry} {i : SlotId} {h : Holder} (sole : e.sole i h) :
    (e.setSlot i none).slots = Vector.replicate 8 none := by
  have empty := ((e.setSlot i none).holds_zero_iff).mp (LockEntry.holds_vacated_zero sole.2)
  exact Vector.ext fun j hj => by simpa using empty ⟨j, hj⟩

theorem State.grantTo_released (s : State) (q : ClientId) (r : Record) (name : Name) (h : Holder) (token : Token) (x : Waiter)
    (n p : Nat) (table : List LockEntry) (evs : List WatchEvent) :
    { (s.released q r h).grantTo name token x with
      table := table, nextToken := n, poolFree := p, watchEvents := s.watchEvents ++ [evs] } =
      { (((((s.replied q r .ok .empty).answeredTo x.client (x.grantedAnswer token)).told evs).mapAccount h.client
          (fun a => a.letGo h.token)).mapAccount x.client (fun a => (a.granted name token).waited)) with
        table := table, nextToken := n, poolFree := p, standingQueue := s.standingQueue ++ [.credit q] } := by
  simp only [State.grantTo, State.released, State.mapAccount, State.withAccount, State.account, State.told, State.replied,
    State.answeredTo, State.withRing, State.recordTaken, State.ring, State.client]

end Sys2Proof.Machine

open Sys2Proof Sys2Proof.Machine in
/-- Settles O21: the sole hold leaves, and the pass grants the head waiter and stops. -/
theorem releaseGrantsTheHeadWaiter : Obligations.ReleaseGrantsTheHeadWaiter := by
  intro q s r f e i h x rest ready hf admits held sole noUpgrade hw apart fit room tokens next token
  obtain ⟨he, hs, hc, ht, _⟩ := id held
  have hn : e.name = f.name := State.name_of_lookup he
  subst hc
  have run := exec_release_grantsHead ready hf admits held sole noUpgrade hw apart fit room tokens next
  rw [State.letGo_withBooks, State.grantedWaiter_withBooks, State.withBooks_stored _ _ _ _ _ (by simp), State.table_grantTo,
    State.table_released, State.grantTo_released, Holder.event, ht, hn] at run
  refine ⟨_, run, rfl, State.differsAt_storeEntry (e := { e with mode := _, waiters := _, slots := _ }) hn ?_⟩
  rw [← LockEntry.slots_soleVacated sole]
  rfl
end

section
/-! PROOFS. A RELEASE that leaves the holder of the pending upgrade alone (R46). -/

namespace Sys2Proof.Machine

section
variable {w : AtEntry} {u : PendingUpgrade} {k : Holder} {i : SlotId}

theorem AtEntry.endUpgradeOfSlot_other (hu : w.entry.upgrade = some u) (hi : u.slot ≠ i) (status : State → ClientId → Status) :
    w.endUpgradeOfSlot i status = w := by
  rw [AtEntry.endUpgradeOfSlot, hu]
  dsimp only
  rw [if_neg hi]

/-- The answer of an upgrade that is converted (R46, R72). -/
def PendingUpgrade.grantedAnswer (u : PendingUpgrade) (k : Holder) : Response :=
  { status := .granted, tag := u.tag, index := u.index, body := .granted k.token k.lease u.waited (some u.report) 1 }

theorem AtEntry.passAndClose_converts (hu : w.entry.upgrade = some u) (hk : w.entry.slots[u.slot] = some k)
    (fit : w.state.fit u.client) (alone : w.entry.holds = 1) :
    w.passAndClose = ((w.state.subWait u.client).answeredTo u.client (u.grantedAnswer k)).storeEntry
      { w.entry.setSlot u.slot (some { k with mode := .exclusive }) with mode := .exclusive, upgrade := none } := by
  have pass : w.grantPass = w.convert u k := by
    rw [AtEntry.grantPass, hu]
    dsimp only
    rw [if_neg (by rw [(w.state.unfit_iff _).mpr fit]; decide), hk]
    dsimp only
    rw [LockEntry.holderCount_eq, if_pos alone]
  rw [AtEntry.passAndClose, pass, AtEntry.convert, State.respond_eq]
  exact AtEntry.close_held LockEntry.holds_seated

end

theorem State.letGo_converted (s : State) (q : ClientId) (r : Record) (name : Name) (h : Holder) (c : ClientId) (a : Response)
    (d : LockEntry) : ((((s.letGo q r name h).subWait c).answeredTo c a).storeEntry d).closeBatch =
      { ((((s.replied q r .ok .empty).answeredTo c a).told [h.event .released name]).mapAccount h.client
          (fun a => a.letGo h.token)).mapAccount c Account.waited with
        table := putEntry d s.table, standingQueue := s.standingQueue ++ [.credit q] } := by
  simp only [State.letGo, State.toldReleased, State.storeEntry, State.closeBatch, State.emit, State.emitHold, State.openBatch,
    State.handCredit, State.dropHold, State.subWait, State.setAccount, State.mapAccount, State.withAccount, State.told,
    State.replied, State.alsoReplied, State.answeredTo, State.withRing, State.recordTaken, State.account, State.ring,
    State.client, appendLast_append, closeLast_append]
  rfl

section
variable {q : ClientId} {s : State} {r : Record} {f : Decode.HoldFields} {e : LockEntry} {i : SlotId} {h k : Holder}
  {u : PendingUpgrade}

theorem LockEntry.holds_vacated_one (hk : e.slots[u.slot] = some k) (hi : u.slot ≠ i)
    (others : ∀ j, j ≠ i → j ≠ u.slot → e.slots[j] = none) : (e.setSlot i none).holds = 1 := by
  have only : ∀ (j : SlotId) (l : Holder), (e.setSlot i none).slots[j] = some l → j = u.slot := by
    intro j l hl
    by_contra hj
    rw [LockEntry.slots_setSlot] at hl
    split at hl
    · cases hl
    · rename_i ne
      rw [others j ne hj] at hl
      cases hl
  have held : (e.setSlot i none).slots[u.slot] = some k := by rw [LockEntry.slots_setSlot, if_neg hi, hk]
  refine le_antisymm ?_ ((LockEntry.holds_pos_iff _).mpr ⟨_, _, held⟩)
  exact (LockEntry.holds_le_one_iff _).mpr fun a b l m ha hb => (only a l ha).trans (only b m hb).symm

theorem exec_release_converts (ready : Ready s q .release r) (hf : Decode.holdFields r = some f)
    (admits : s.windowAdmits q [f.name]) (held : s.holdsAt q f.name f.token e i h) (hu : e.upgrade = some u) (hi : u.slot ≠ i)
    (hk : e.slots[u.slot] = some k) (fit : s.fit u.client) (others : ∀ j, j ≠ i → j ≠ u.slot → e.slots[j] = none) :
    exec (.release q) s = .next ((((s.letGo q r e.name h).subWait u.client).answeredTo u.client (u.grantedAnswer k)).storeEntry
      { (e.setSlot i none).setSlot u.slot (some { k with mode := .exclusive }) with
        mode := .exclusive, upgrade := none }).closeBatch := by
  have stays := AtEntry.endUpgradeOfSlot_other
    (w := ({ entry := e, state := (s.recordTaken q).openBatch : AtEntry }.removeHold i h).onState (s.toldReleased q r e.name h))
    hu hi (fun _ _ => .cancelled .byRequest)
  have pass := AtEntry.passAndClose_converts (w := { entry := e.setSlot i none, state := s.letGo q r e.name h }) (k := k) hu
    (by rw [LockEntry.slots_setSlot, if_neg hi, hk])
    (by simpa only [State.fit, State.client, State.clients_letGo] using fit) (LockEntry.holds_vacated_one hk hi others)
  refine exec_release ready hf admits held ?_ (by simpa [State.nextToken_letGo] using ready.tokens)
  rw [AtEntry.holdLeaves, stays]
  exact pass

end

end Sys2Proof.Machine

open Sys2Proof Sys2Proof.Machine in
/-- Settles O22: the hold leaves, and the pass converts the pending upgrade. -/
theorem releaseConvertsTheUpgrade : Obligations.ReleaseConvertsTheUpgrade := by
  intro q s r f e i h k u ready hf admits held hu hi hk apart fit others
  obtain ⟨he, hs, hc, ht, _⟩ := id held
  have hn : e.name = f.name := State.name_of_lookup he
  subst hc
  have run := exec_release_converts ready hf admits held hu hi hk fit others
  rw [State.letGo_converted, Holder.event, ht, hn] at run
  exact ⟨_, run, rfl, State.differsAt_storeEntry (e := { e with mode := _, upgrade := _, slots := _ }) hn rfl⟩
end

section
/-! PROOFS. RENEW (R67), and DOWNGRADE with the run of SHARED waiters that it lets in (R68, R48, R50, R51). -/

namespace Sys2Proof.Machine

/-! ## A request answered beside a stored entry -/

/-- An event that tells no watch event, with its answer and one entry stored. -/
theorem State.alsoReplied_storedQuietly (s : State) (q : ClientId) (r : Record) (status : Status) (body : Body) (d : LockEntry) :
    (((s.recordTaken q).openBatch.alsoReplied s q r status body).storeEntry d).closeBatch =
      { s.replied q r status body with table := putEntry d s.table } := by
  simp only [State.storeEntry, State.closeBatch, State.openBatch, State.replied, State.alsoReplied, State.answeredTo, State.withRing,
    State.recordTaken, State.ring, State.client, closeLast_append, if_true]

theorem State.alsoReplied_quietly (s : State) (q : ClientId) (r : Record) (status : Status) (body : Body) :
    ((s.recordTaken q).openBatch.alsoReplied s q r status body).closeBatch = s.replied q r status body :=
  (congrArg State.closeBatch (answeredTo_openBatch _ _ _)).trans (closeBatch_openBatch _)

/-! ## RENEW -/

/-- A RENEW as intake passes it (R105). -/
def State.renewPassed (s : State) (q : ClientId) (r : Record) (f : Decode.RenewFields) : Decode.RenewFields :=
  if (s.takenAs q r).cap.isSome then adjustRenew s.limits f else f

theorem State.renewPassed_fields (s : State) (q : ClientId) (r : Record) (f : Decode.RenewFields) :
    (s.renewPassed q r f).name = f.name ∧ (s.renewPassed q r f).token = f.token ∧
      effectiveLease (s.renewPassed q r f).lease (s.client q).config.defaultLease (s.takenAs q r).cap = s.leaseFor q f.lease := by
  have lease := effectiveLease_eq s q r f.lease
  unfold State.renewPassed
  cases h : (s.takenAs q r).cap.isSome <;> rw [h] at lease <;> exact ⟨rfl, rfl, lease⟩

theorem exec_renew {q : ClientId} {s : State} {r : Record} {f : Decode.RenewFields} {e : LockEntry} {i : SlotId} {h : Holder}
    (ready : Ready s q .renew r) (hf : Decode.renewFields r = some f) (admits : s.windowAdmits q [f.name])
    (held : s.holdsAt q f.name f.token e i h) :
    exec (.renew q) s = .next { s.replied q r .ok (.renewed (s.leaseFor q f.lease)) with
      table := putEntry (e.setSlot i (some { h with lease := s.leaseFor q f.lease, expiryRaised := false })) s.table } := by
  obtain ⟨name, token, lease⟩ := s.renewPassed_fields q r f
  have taken : renewTaken (s.takenAs q r) (s.renewPassed q r f) (s.recordTaken q).openBatch =
      ((s.recordTaken q).openBatch.alsoReplied s q r .ok (.renewed (s.leaseFor q f.lease))).storeEntry
        (e.setSlot i (some { h with lease := s.leaseFor q f.lease, expiryRaised := false })) := by
    rw [renewTaken, name, token, State.findHold_found (s := (s.recordTaken q).openBatch) (c := (s.takenAs q r).client) held]
    dsimp only
    rw [show effectiveLease (s.renewPassed q r f).lease ((s.recordTaken q).openBatch.client (s.takenAs q r).client).config.defaultLease
      (s.takenAs q r).cap = s.leaseFor q f.lease from lease, State.answerWith_eq]
    rfl
  refine (takeLockEvent_record Decode.renewFields (fun f => [f.name]) adjustRenew renewTaken f ready hf
    (by simp [Decode.Opcode.isCommand]) admits _ taken ready.tokens).trans ?_
  rw [State.alsoReplied_storedQuietly]

/-! ## DOWNGRADE -/

/-- The entry of a DOWNGRADE before the pass (R68). -/
def LockEntry.downgraded (e : LockEntry) (i : SlotId) (h : Holder) : LockEntry :=
  { e.setSlot i (some { h with mode := .shared }) with mode := .shared }

section
variable {q : ClientId} {s t : State} {r : Record} {f : Decode.HoldFields} {e : LockEntry} {i : SlotId} {h : Holder}

theorem exec_downgrade (ready : Ready s q .downgrade r) (hf : Decode.holdFields r = some f) (admits : s.windowAdmits q [f.name])
    (taken : downgradeTaken (s.takenAs q r) f (s.recordTaken q).openBatch = t) (tokens : t.nextToken ≤ 2 ^ 64) :
    exec (.downgrade q) s = .next t.closeBatch :=
  takeLockEvent_record Decode.holdFields (fun f => [f.name]) noAdjust downgradeTaken f ready hf (by simp [Decode.Opcode.isCommand])
    admits _ (by rw [show noAdjust s.limits f = f from rfl, ite_self]; exact taken) tokens

theorem downgradeTaken_shared (held : s.holdsAt q f.name f.token e i h) (shared : h.mode = .shared) :
    downgradeTaken (s.takenAs q r) f (s.recordTaken q).openBatch =
      (s.recordTaken q).openBatch.alsoReplied s q r .wrongMode .empty := by
  rw [downgradeTaken, State.findHold_found (s := (s.recordTaken q).openBatch) (c := (s.takenAs q r).client) held]
  dsimp only
  rw [if_pos shared, State.answer_eq]

theorem downgradeTaken_exclusive (held : s.holdsAt q f.name f.token e i h) (exclusive : h.mode = .exclusive) :
    downgradeTaken (s.takenAs q r) f (s.recordTaken q).openBatch =
      AtEntry.passAndClose { entry := e.downgraded i h,
                             state := (s.recordTaken q).openBatch.alsoReplied s q r .ok .empty } := by
  rw [downgradeTaken, State.findHold_found (s := (s.recordTaken q).openBatch) (c := (s.takenAs q r).client) held]
  dsimp only
  rw [if_neg (by rw [exclusive]; decide), State.answer_eq]
  rfl

theorem LockEntry.holds_downgraded : (e.downgraded i h).holds ≠ 0 :=
  LockEntry.holds_seated (e := e) (i := i) (h := { h with mode := .shared })

end

end Sys2Proof.Machine
end

section
/-! PROOFS. The grant pass over a run of SHARED waiters behind one SHARED holder: the lowest free slots in order, consecutive tokens
(R48, R50, R51). -/

namespace Sys2Proof.Machine

/-! ## The slots that the run takes -/

/-- The number of the slot that the waiter at position `k` of the run takes, the holder standing in slot `i`: 8 when none is left. -/
def runSlotNumber (i : SlotId) (k : Nat) : Nat := if k < i.val then k else k + 1

/-- The slot itself. -/
def runSlot (i : SlotId) (k : Nat) : SlotId := Fin.ofNat 8 (runSlotNumber i k)

/-- The holder stands in slot `i`, and the run has filled the `k` lowest other slots. -/
def LockEntry.filledTo (e : LockEntry) (i : SlotId) (k : Nat) : Prop :=
  ∀ j : SlotId, e.slots[j] = none ↔ j ≠ i ∧ runSlotNumber i k ≤ j.val

section
variable {e : LockEntry} {i : SlotId} {k : Nat}

theorem val_runSlot (h : k < 7) : (runSlot i k).val = runSlotNumber i k := by
  have := i.isLt
  unfold runSlot runSlotNumber
  rw [Fin.val_ofNat]
  split <;> omega

theorem LockEntry.filledTo.lowestFree (filled : e.filledTo i k) (h : k < 7) : e.lowestFree (runSlot i k) := by
  have number := val_runSlot (i := i) h
  refine ⟨(filled _).mpr ⟨fun same => ?_, number.ge⟩, fun j hj free => ?_⟩
  · rw [same] at number
    unfold runSlotNumber at number
    split at number <;> omega
  · have := ((filled j).mp free).2
    have less : j.val < (runSlot i k).val := hj
    omega

theorem LockEntry.filledTo.next (filled : e.filledTo i k) (h : k < 7) (x : Holder) :
    (e.setSlot (runSlot i k) (some x)).filledTo i (k + 1) := by
  intro j
  have number := val_runSlot (i := i) h
  have apart : j = runSlot i k ↔ j.val = runSlotNumber i k := by rw [Fin.ext_iff, number]
  have holder : j = i ↔ j.val = i.val := Fin.ext_iff
  rw [LockEntry.slots_setSlot]
  split
  · rename_i taken
    rw [apart] at taken
    simp only [reduceCtorEq, false_iff, not_and, not_le, ne_eq, holder, taken]
    unfold runSlotNumber
    split <;> split <;> omega
  · rename_i other
    rw [apart] at other
    rw [filled j, ne_eq, holder]
    unfold runSlotNumber at other ⊢
    split_ifs at other ⊢ <;> omega

theorem LockEntry.filledTo.held (filled : e.filledTo i k) : e.holds ≠ 0 := by
  rw [ne_eq, LockEntry.holds_zero_iff]
  exact fun all => ((filled i).mp (all i)).1 rfl

theorem LockEntry.filledTo.full (filled : e.filledTo i 7) : ¬ ∃ j, e.lowestFree j := by
  rintro ⟨j, free, _⟩
  have := ((filled j).mp free).2
  have := i.isLt
  have := j.isLt
  unfold runSlotNumber at *
  split at * <;> omega

end

/-! ## The run -/

section
variable {rest : List Waiter} {i : SlotId} {n p : Nat} {ws : List (List WatchEvent)}

/-- The slots after the waiters of the run, each with its position, are granted tokens from `n` on. -/
def slotsAfterRun (i : SlotId) (n : Nat) (run : List (Waiter × Nat)) (v : Vector (Option Holder) 8) : Vector (Option Holder) 8 :=
  run.foldl (fun v x => v.set (runSlot i x.2) (some (grantedHold x.1.client (n + x.2) .shared x.1.lease x.1.tag))) v

/-- The rest of the block after them. -/
def State.afterRun (name : Name) (n : Nat) (run : List (Waiter × Nat)) (u : State) : State :=
  run.foldl (fun u x => u.grantTo name (BitVec.ofNat 64 (n + x.2)) x.1) u

/-- What the Watch Filter is told of them. -/
def eventsOfRun (name : Name) (n : Nat) (run : List (Waiter × Nat)) : List WatchEvent :=
  run.map (fun x => { kind := .granted, name := name, client := x.1.client, token := BitVec.ofNat 64 (n + x.2), mode := .shared })

theorem passWaiters_run (run : List Waiter) : ∀ (k : Nat) (e : LockEntry) (u : State) (p : Nat) (evs : List WatchEvent),
    e.mode = .shared → e.filledTo i k → k + run.length ≤ 7 →
    (∀ x ∈ run, x.mode = .shared ∧ u.fit x.client ∧ u.holdRoom x.client) → (run.map (fun x => x.client)).Nodup →
    (∀ y, rest.head? = some y → u.fit y.client ∧ (y.mode = .exclusive ∨ k + run.length = 7)) →
    passWaiters (run ++ rest) { entry := e, state := u.withBooks (n + k) p (ws ++ [evs]) } =
      { entry := { e with waiters := rest, slots := slotsAfterRun i n (run.zipIdx k) e.slots },
        state := (u.afterRun e.name n (run.zipIdx k)).withBooks (n + (k + run.length)) (p + run.length)
          (ws ++ [evs ++ eventsOfRun e.name n (run.zipIdx k)]) } := by
  induction run with
  | nil =>
    intro k e u p evs mode filled _ _ _ next
    refine (passWaiters_stop fun y hy => ⟨(next y hy).1, ?_⟩).trans ?_
    · rcases (next y hy).2 with exclusive | full
      · rw [exclusive]
        exact LockEntry.headGrantable_exclusive filled.held
      · rw [LockEntry.headGrantable_iff]
        obtain rfl : k = 7 := full
        rintro (gone | ⟨_, _, free⟩)
        · exact filled.held gone
        · exact filled.full free
    · simp only [List.zipIdx_nil, eventsOfRun, List.map_nil, List.append_nil]
      rfl
  | cons x run ih =>
    intro k e u p evs mode filled room able nodup next
    obtain ⟨shared, fit, quota⟩ := able x List.mem_cons_self
    have few : k < 7 := by rw [List.length_cons] at room; omega
    have free := filled.lowestFree few
    obtain ⟨fresh, nodup⟩ := List.nodup_cons.mp nodup
    have grantable : e.headGrantable x.mode = true := (e.headGrantable_iff _).mpr (.inr ⟨shared, mode, _, free⟩)
    rw [List.cons_append, passWaiters_grant (w := { entry := e, state := u.withBooks (n + k) p (ws ++ [evs]) }) fit grantable quota,
      AtEntry.grantWaiter_eq (w := { entry := e, state := u.withBooks (n + k) p (ws ++ [evs]) }) free]
    dsimp only
    rw [State.grantedWaiter_withBooks, shared, if_neg filled.held]
    have rest := ih (k + 1) (e.setSlot (runSlot i k) (some (grantedHold x.client (n + k) .shared x.lease x.tag)))
      (u.grantTo e.name (BitVec.ofNat 64 (n + k)) x) (p + 1) (evs ++ [x.grantedEvent e.name (BitVec.ofNat 64 (n + k))]) mode
      (filled.next few _) (by rw [List.length_cons] at room; omega) ?_ nodup ?_
    · rw [LockEntry.name_setSlot] at rest
      have told : x.grantedEvent e.name (BitVec.ofNat 64 (n + k)) :: eventsOfRun e.name n (run.zipIdx (k + 1)) =
          eventsOfRun e.name n ((x :: run).zipIdx k) := by
        rw [List.zipIdx_cons, Waiter.grantedEvent, shared]
        rfl
      rw [List.append_assoc, List.singleton_append, told, show k + 1 + run.length = k + (x :: run).length by simp; omega,
        show p + 1 + run.length = p + (x :: run).length by simp; omega] at rest
      exact rest
    · refine fun y hy => ?_
      obtain ⟨mode, fit, quota⟩ := able y (List.mem_cons_of_mem x hy)
      refine ⟨mode, fit, ?_⟩
      have apart : y.client ≠ x.client := fun same => fresh (List.mem_map.mpr ⟨y, hy, same⟩)
      rw [State.holdRoom, State.account_grantTo_other _ _ _ _ apart]
      exact quota
    · refine fun y hy => ⟨(next y hy).1, (next y hy).2.imp_right fun full => ?_⟩
      rw [List.length_cons] at full
      omega

end

end Sys2Proof.Machine
end

section
/-! PROOFS. RENEW and DOWNGRADE, whole (R67, R68). -/

namespace Sys2Proof.Machine

theorem State.frame_afterRun (name : Name) (n : Nat) (run : List (Waiter × Nat)) : ∀ u : State,
    (u.afterRun name n run).table = u.table ∧ (u.afterRun name n run).watchEvents = u.watchEvents := by
  induction run with
  | nil => exact fun u => ⟨rfl, rfl⟩
  | cons x run ih => exact fun u => ih (u.grantTo name (BitVec.ofNat 64 (n + x.2)) x.1)

theorem slotsAfterRun_held (i j : SlotId) (n : Nat) (run : List (Waiter × Nat)) : ∀ v : Vector (Option Holder) 8,
    v[j] ≠ none → (slotsAfterRun i n run v)[j] ≠ none := by
  induction run with
  | nil => exact fun v h => h
  | cons x run ih =>
    refine fun v h => ih _ ?_
    simp only [Fin.getElem_fin, Vector.getElem_set]
    split
    · exact Option.some_ne_none _
    · exact h

section
variable {q : ClientId} {s : State} {r : Record} {f : Decode.HoldFields} {e : LockEntry} {i : SlotId} {h : Holder}
  {run rest : List Waiter}

theorem LockEntry.filledTo_downgraded (lawful : e.Lawful) (hs : e.slots[i] = some h) (exclusive : h.mode = .exclusive) :
    (e.downgraded i h).filledTo i 0 := by
  have alone := (e.holds_le_one_iff).mp (lawful.alone ((lawful.modes i h hs).symm.trans exclusive)).le
  have zero : runSlotNumber i 0 ≤ 1 ∧ (0 < i.val → runSlotNumber i 0 = 0) := by
    unfold runSlotNumber
    split <;> omega
  intro j
  have slot : (e.downgraded i h).slots[j] = if j = i then some { h with mode := .shared } else e.slots[j] :=
    LockEntry.slots_setSlot e i j _
  rw [slot]
  split
  · rename_i same
    simp [same]
  · rename_i other
    have free : e.slots[j] = none := Option.eq_none_iff_forall_ne_some.mpr fun k hk => other (alone j i k h hk hs)
    have apart : j.val ≠ i.val := fun same => other (Fin.ext same)
    exact iff_of_true free ⟨other, by omega⟩

/-- The DOWNGRADE of an EXCLUSIVE hold behind which a run of SHARED waiters stands (R68, R51). -/
theorem exec_downgrade_run (ready : Ready s q .downgrade r) (hf : Decode.holdFields r = some f)
    (admits : s.windowAdmits q [f.name]) (held : s.holdsAt q f.name f.token e i h) (exclusive : h.mode = .exclusive)
    (lawful : e.Lawful) (noUpgrade : e.upgrade = none) (hw : e.waiters = run ++ rest) (nonempty : run ≠ []) (few : run.length ≤ 7)
    (able : ∀ x ∈ run, x.mode = .shared ∧ s.fit x.client ∧ s.holdRoom x.client)
    (next : ∀ y, rest.head? = some y → s.fit y.client ∧ (y.mode = .exclusive ∨ run.length = 7))
    (tokens : s.nextToken + run.length ≤ 2 ^ 64) :
    exec (.downgrade q) s =
      .next { ((s.replied q r .ok .empty).afterRun e.name s.nextToken run.zipIdx).told
                (eventsOfRun e.name s.nextToken run.zipIdx) with
              nextToken := s.nextToken + run.length, poolFree := s.poolFree + run.length,
              table := putEntry { e.downgraded i h with
                waiters := rest, slots := slotsAfterRun i s.nextToken run.zipIdx (e.downgraded i h).slots } s.table } := by
  have start : (s.recordTaken q).openBatch.alsoReplied s q r .ok .empty =
      (s.replied q r .ok .empty).withBooks (s.nextToken + 0) s.poolFree (s.watchEvents ++ [[]]) := rfl
  have nodup : (run.map (fun x => x.client)).Nodup := by
    have := lawful.oneWait
    rw [hw, List.map_append] at this
    exact this.of_append_left
  have pass := passWaiters_run (rest := rest) (n := s.nextToken) (ws := s.watchEvents) run 0 (e.downgraded i h)
    (s.replied q r .ok .empty) s.poolFree [] rfl (LockEntry.filledTo_downgraded lawful held.2.1 exclusive) (by omega) able nodup
    (by rw [Nat.zero_add]; exact next)
  rw [Nat.zero_add, List.nil_append] at pass
  have whole : AtEntry.passAndClose { entry := e.downgraded i h, state := (s.recordTaken q).openBatch.alsoReplied s q r .ok .empty } =
      (((s.replied q r .ok .empty).afterRun e.name s.nextToken run.zipIdx).withBooks (s.nextToken + run.length)
        (s.poolFree + run.length) (s.watchEvents ++ [eventsOfRun e.name s.nextToken run.zipIdx])).storeEntry
          { e.downgraded i h with
            waiters := rest, slots := slotsAfterRun i s.nextToken run.zipIdx (e.downgraded i h).slots } := by
    have granted : AtEntry.grantPass { entry := e.downgraded i h, state := (s.recordTaken q).openBatch.alsoReplied s q r .ok .empty } =
        passWaiters (run ++ rest) { entry := e.downgraded i h, state := (s.recordTaken q).openBatch.alsoReplied s q r .ok .empty } := by
      rw [AtEntry.grantPass, show (e.downgraded i h).upgrade = none from noUpgrade,
        show (e.downgraded i h).waiters = run ++ rest from hw]
    rw [AtEntry.passAndClose, granted, start, pass]
    refine AtEntry.close_held (Nat.one_le_iff_ne_zero.mp ((LockEntry.holds_pos_iff _).mpr ⟨i, ?_⟩))
    refine Option.ne_none_iff_exists'.mp (slotsAfterRun_held i i _ _ _ ?_)
    exact (LockEntry.slots_setSlot_self e i _).trans_ne (Option.some_ne_none _)
  obtain ⟨table, events⟩ := State.frame_afterRun e.name s.nextToken run.zipIdx (s.replied q r .ok .empty)
  refine (exec_downgrade ready hf admits ((downgradeTaken_exclusive held exclusive).trans whole) tokens).trans ?_
  rw [State.withBooks_stored _ _ _ _ _ (by simpa [eventsOfRun] using nonempty), table, State.told, events]
  rfl

theorem exec_downgrade_stuck (ready : Ready s q .downgrade r) (hf : Decode.holdFields r = some f)
    (admits : s.windowAdmits q [f.name]) (held : s.holdsAt q f.name f.token e i h) (exclusive : h.mode = .exclusive)
    (noUpgrade : e.upgrade = none) (stuck : s.stuckBehind e.waiters) :
    exec (.downgrade q) s =
      .next { s.replied q r .ok .empty with table := putEntry (e.downgraded i h) s.table } := by
  have whole := AtEntry.passAndClose_stuck
    (w := { entry := e.downgraded i h, state := (s.recordTaken q).openBatch.alsoReplied s q r .ok .empty })
    LockEntry.holds_downgraded (stuck.client rfl) noUpgrade
  refine (exec_downgrade ready hf admits ((downgradeTaken_exclusive held exclusive).trans whole) ready.tokens).trans ?_
  rw [State.alsoReplied_storedQuietly]

end

end Sys2Proof.Machine

open Sys2Proof Sys2Proof.Machine in
/-- Settles O24: a RENEW stores the lease; a DOWNGRADE lets in the run, by induction on it. -/
theorem renewAndDowngrade : Obligations.RenewAndDowngrade := by
  refine ⟨fun q s r f e i h ready hf admits held => ?_, fun q s r f e i h ready hf admits held => ⟨fun shared => ?_,
    fun exclusive noUpgrade stuck => ?_, fun run rest exclusive lawful noUpgrade hw nonempty few able next tokens => ?_⟩⟩
  · have hn : e.name = f.name := State.name_of_lookup held.1
    exact ⟨_, exec_renew ready hf admits held, rfl, State.differsAt_storeEntry hn rfl⟩
  · exact (exec_downgrade ready hf admits (downgradeTaken_shared held shared) ready.tokens).trans
      (congrArg Host.Outcome.next (s.alsoReplied_quietly q r _ _))
  · have hn : e.name = f.name := State.name_of_lookup held.1
    exact ⟨_, exec_downgrade_stuck ready hf admits held exclusive noUpgrade stuck, rfl, State.differsAt_storeEntry hn rfl⟩
  · have hn : e.name = f.name := State.name_of_lookup held.1
    have run := exec_downgrade_run ready hf admits held exclusive lawful noUpgrade hw nonempty few able next tokens
    rw [hn] at run
    exact ⟨_, run, rfl, State.differsAt_storeEntry hn rfl⟩
end

section
/-! PROOFS. The grants of a set (R36, R39). -/

namespace Sys2Proof.Machine

/-- A set has a position (R36). -/
theorem positions_ne_nil {r : Record} {f : Decode.SetFields} (hf : Decode.setFields r = some f) : f.positions ≠ [] := by
  unfold Decode.setFields at hf
  split at hf
  · rename_i count
    split at hf
    · rename_i ps hps
      obtain ⟨n, hn⟩ : ∃ n, Decode.fieldNat r 8 1 = n + 1 := ⟨_, (Nat.sub_add_cancel count.1).symm⟩
      rw [hn] at hps
      unfold Decode.setPositions at hps
      split at hps
      · cases hps
        cases hf
        exact List.cons_ne_nil _ _
      · cases hps
    · cases hf
  · cases hf

section
variable {s : State} {c : ClientId} {lease : Nat} {tag : Tag}

/-! ## One grant -/

theorem State.lookup_grantName_absent {name : Name} (he : s.entry? name = none) (m : Mode) :
    (s.grantName c name m lease tag).entry? name = some (newEntry name (grantedHold c s.nextToken m lease tag)) := by
  rw [State.grantName_absent he, State.lookup_storeEntry]
  exact if_pos rfl

theorem State.lookup_grantName_resident {name : Name} {e : LockEntry} {i : SlotId} {m : Mode} (he : s.entry? name = some e)
    (admits : e.admitsAtOnce m) (free : e.lowestFree i) :
    (s.grantName c name m lease tag).entry? name = some (e.setSlot i (some (grantedHold c s.nextToken m lease tag))) := by
  rw [State.grantName_resident he admits free, State.lookup_storeEntry]
  exact if_pos (State.name_of_lookup he)

/-- A grant draws a token, lists the hold and tells it; what it makes of the table stands in the lemmas above. -/
theorem State.grantName_frame {name : Name} {m : Mode} (admits : ∀ e, s.entry? name = some e → e.admitsAtOnce m) :
    s.grantName c name m lease tag =
      { (s.drawToken.appendHold c { name := name, token := s.token }).emitGranted name c s.token m with
        table := (s.grantName c name m lease tag).table, freeEntries := (s.grantName c name m lease tag).freeEntries } := by
  cases he : s.entry? name with
  | none => rw [State.grantName_absent he]; rfl
  | some e =>
    obtain ⟨i, free⟩ := (admits e he).2.2.1
    rw [State.grantName_resident he (admits e he) free]
    rfl

theorem State.nextToken_grantName {name : Name} {m : Mode} (admits : ∀ e, s.entry? name = some e → e.admitsAtOnce m) :
    (s.grantName c name m lease tag).nextToken = s.nextToken + 1 := by
  rw [State.grantName_frame admits]
  simp [State.emitGranted, State.drawToken]

/-! ## All grants -/

variable {n : Nat} {ws : List (List WatchEvent)}

/-- The holds that the positions of a set list, with tokens from `n` on. -/
def itemsOfSet (n : Nat) (ps : List ((Name × Mode) × Nat)) : List HoldItem :=
  ps.map (fun x => { name := x.1.1, token := BitVec.ofNat 64 (n + x.2) })

/-- What the Watch Filter is told of them. -/
def eventsOfSet (c : ClientId) (n : Nat) (ps : List ((Name × Mode) × Nat)) : List WatchEvent :=
  ps.map (fun x => { kind := .granted, name := x.1.1, client := c, token := BitVec.ofNat 64 (n + x.2), mode := x.1.2 })

/-- The rest of the block after the grants of a set. -/
def State.setGranted (s : State) (c : ClientId) (items : List HoldItem) (n free : Nat) (ws : List (List WatchEvent))
    (table : List LockEntry) : State :=
  { s.mapAccount c (fun a => { a with holds := a.holds ++ items }) with
    table := table, freeEntries := free, nextToken := n, watchEvents := ws }

theorem State.setGranted_emitGranted (s : State) (c : ClientId) (item : HoldItem) (items : List HoldItem) (name : Name) (t : Token)
    (m : Mode) (n free free' : Nat) (ws : List (List WatchEvent)) (table table' : List LockEntry) :
    { (s.drawToken.appendHold c item).emitGranted name c t m with table := table', freeEntries := free' : State }.setGranted c items
      n free ws table = s.setGranted c (item :: items) n free ws table := by
  simp [State.setGranted, State.emitGranted, State.emit, State.appendHold, State.drawToken, State.setAccount, State.mapAccount,
    State.withAccount, State.account]

theorem State.mapAccount_id (s : State) (c : ClientId) {g : Account → Account} (same : ∀ a, g a = a) : s.mapAccount c g = s := by
  simp [State.mapAccount, State.withAccount, State.account, same]

theorem State.setGranted_nil (s : State) (c : ClientId) :
    s.setGranted c [] s.nextToken s.freeEntries s.watchEvents s.table = s := by
  have same : s.mapAccount c (fun a => { a with holds := a.holds ++ [] }) = s := s.mapAccount_id c (fun a => by rw [List.append_nil])
  rw [State.setGranted, same]

theorem State.grantAll_cons (s : State) (c : ClientId) (p : Name × Mode) (ps : List (Name × Mode)) (lease : Nat) (tag : Tag) :
    s.grantAll c (p :: ps) lease tag = (s.grantName c p.1 p.2 lease tag).grantAll c ps lease tag := rfl

theorem State.grantAll_frame (ps : List (Name × Mode)) : ∀ (k : Nat) (s : State) (evs : List WatchEvent), s.grantsSet c ps →
    s.nextToken = n + k → s.watchEvents = ws ++ [evs] → s.grantAll c ps lease tag =
      s.setGranted c (itemsOfSet n (ps.zipIdx k)) (n + (k + ps.length)) (s.freeEntries - (ps.filter s.absent).length)
        (ws ++ [evs ++ eventsOfSet c n (ps.zipIdx k)]) (s.grantAll c ps lease tag).table := by
  induction ps with
  | nil =>
    intro k s evs _ token events
    have same := (s.setGranted_nil c).symm
    rw [token, events] at same
    simpa [State.grantAll, itemsOfSet, eventsOfSet] using same
  | cons p ps ih =>
    intro k s evs passes token events
    have admits := passes.admitted p List.mem_cons_self
    have frame := State.grantName_frame (c := c) (lease := lease) (tag := tag) admits
    have rest := ih (k + 1) (s.grantName c p.1 p.2 lease tag) (evs ++ eventsOfSet c n [(p, k)]) (passes.tail lease tag)
      (by rw [State.nextToken_grantName admits, token]; rfl)
      (by
        rw [frame]
        simp [State.emitGranted, State.emit, State.drawToken, events, eventsOfSet, State.token, token])
    have free : (s.grantName c p.1 p.2 lease tag).freeEntries - (ps.filter (s.grantName c p.1 p.2 lease tag).absent).length =
        s.freeEntries - ((p :: ps).filter s.absent).length := by
      have still : ps.filter (s.grantName c p.1 p.2 lease tag).absent = ps.filter s.absent :=
        List.filter_congr fun p' hp' => by
          have other : p'.1 ≠ p.1 := fun same => (List.nodup_cons.mp passes.distinct).1 (same ▸ List.mem_map_of_mem hp')
          rw [State.absent, State.absent, s.lookup_grantName c p.2 lease tag other admits]
      rw [still, s.freeEntries_grantName c p.2 lease tag admits, List.filter_cons, State.absent]
      split
      · rw [List.length_cons]
        omega
      · exact rfl
    rw [free] at rest
    rw [State.grantAll_cons, rest, frame, State.setGranted_emitGranted, List.append_assoc, List.zipIdx_cons, List.length_cons,
      show k + 1 + ps.length = k + (ps.length + 1) by omega, State.token, token]
    rfl

/-! ## The table after them -/

theorem State.lookup_grantAll_other (ps : List (Name × Mode)) {name : Name} (apart : name ∉ ps.map Prod.fst) : ∀ s : State,
    s.grantsSet c ps → (s.grantAll c ps lease tag).entry? name = s.entry? name := by
  induction ps with
  | nil => exact fun _ _ => rfl
  | cons p ps ih =>
    intro s passes
    rw [List.map_cons, List.mem_cons, not_or] at apart
    rw [State.grantAll_cons, ih apart.2 _ (passes.tail lease tag),
      s.lookup_grantName c p.2 lease tag apart.1 (passes.admitted p List.mem_cons_self)]

theorem State.lookup_grantAll (ps : List (Name × Mode)) {name : Name} {m : Mode} : ∀ (k p : Nat) (s : State), s.grantsSet c ps →
    s.nextToken = n + k → ps[p]? = some (name, m) →
    (s.entry? name = none → (s.grantAll c ps lease tag).entry? name =
      some (newEntry name (grantedHold c (n + (k + p)) m lease tag))) ∧
    (∀ e i, s.entry? name = some e → e.lowestFree i → (s.grantAll c ps lease tag).entry? name =
      some (e.setSlot i (some (grantedHold c (n + (k + p)) m lease tag)))) := by
  induction ps with
  | nil => intro k p s _ _ hp; cases hp
  | cons x ps ih =>
    intro k p s passes token hp
    obtain ⟨fresh, _⟩ := List.nodup_cons.mp passes.distinct
    have admits := passes.admitted x List.mem_cons_self
    rw [State.grantAll_cons]
    cases p with
    | zero =>
      obtain rfl : x = (name, m) := by simpa using hp
      rw [State.lookup_grantAll_other ps fresh _ (passes.tail lease tag), Nat.add_zero, ← token]
      exact ⟨fun absent => State.lookup_grantName_absent absent m,
        fun e i he free => State.lookup_grantName_resident he (admits e he) free⟩
    | succ p =>
      rw [List.getElem?_cons_succ] at hp
      have other : name ≠ x.1 := fun same => fresh (same ▸ List.mem_map_of_mem (f := Prod.fst) (List.mem_of_getElem? hp))
      have rest := ih (k + 1) p _ (passes.tail lease tag) (by rw [State.nextToken_grantName admits, token]; rfl) hp
      rw [s.lookup_grantName c x.2 lease tag other admits, show k + 1 + p = k + (p + 1) by omega] at rest
      exact rest

end

end Sys2Proof.Machine
end

section
/-! PROOFS. A set that passes its checks is granted whole (R36, R39). -/

namespace Sys2Proof.Machine

/-- A set as intake passes it (R105). -/
def State.setPassed (s : State) (q : ClientId) (r : Record) (f : Decode.SetFields) : Decode.SetFields :=
  if (s.takenAs q r).cap.isSome then adjustSet s.limits f else f

theorem State.setPassed_fields (s : State) (q : ClientId) (r : Record) (f : Decode.SetFields) :
    (s.setPassed q r f).positions = f.positions ∧
      effectiveLease (s.setPassed q r f).lease (s.client q).config.defaultLease (s.takenAs q r).cap = s.leaseFor q f.lease := by
  have lease := effectiveLease_eq s q r f.lease
  unfold State.setPassed
  cases h : (s.takenAs q r).cap.isSome <;> rw [h] at lease <;> exact ⟨rfl, lease⟩

section
variable {q : ClientId} {s : State} {r : Record} {f : Decode.SetFields}

theorem State.grantsSet.recordTaken {ps : List (Name × Mode)} (h : s.grantsSet q ps) :
    (s.recordTaken q).openBatch.grantsSet q ps := ⟨h.distinct, h.apart, h.quota, h.room, h.admitted⟩

/-- The grants of a set, answered (R39). -/
def State.setAcquired (s : State) (q : ClientId) (r : Record) (f : Decode.SetFields) : State :=
  ((s.recordTaken q).openBatch.grantAll q f.positions (s.leaseFor q f.lease) (Decode.tag r)).alsoReplied s q r .granted
    (.granted (BitVec.ofNat 64 s.nextToken) (s.leaseFor q f.lease) 0 none f.positions.length)

theorem setTaken_granted (passes : s.grantsSet q f.positions) :
    setTaken (s.takenAs q r) (s.setPassed q r f) (s.recordTaken q).openBatch = s.setAcquired q r f := by
  obtain ⟨positions, lease⟩ := s.setPassed_fields q r f
  obtain ⟨distinct, apart, quota, room, admitted⟩ := (grantsSet_iff _ _ _).mp passes.recordTaken
  rw [setTaken, positions]
  rw [distinct, if_neg (by decide), show (s.takenAs q r).client = q from rfl, apart]
  dsimp only
  rw [if_neg (by omega), if_neg (by omega), admitted, if_neg (by decide), show effectiveLease (s.setPassed q r f).lease
    ((s.recordTaken q).openBatch.client q).config.defaultLease (s.takenAs q r).cap = s.leaseFor q f.lease from lease,
    State.answerGranted, State.answerWith_eq]
  rfl

theorem State.setAcquired_eq (passes : s.grantsSet q f.positions) : s.setAcquired q r f =
    ((s.recordTaken q).openBatch.setGranted q (itemsOfSet s.nextToken f.positions.zipIdx) (s.nextToken + f.positions.length)
      (s.freeEntries - (f.positions.filter s.absent).length)
      (s.watchEvents ++ [eventsOfSet q s.nextToken f.positions.zipIdx]) (s.setAcquired q r f).table).alsoReplied s q r .granted
        (.granted (BitVec.ofNat 64 s.nextToken) (s.leaseFor q f.lease) 0 none f.positions.length) := by
  have frame := State.grantAll_frame (lease := s.leaseFor q f.lease) (tag := Decode.tag r) (n := s.nextToken) (ws := s.watchEvents)
    f.positions 0 (s.recordTaken q).openBatch [] passes.recordTaken rfl rfl
  rw [Nat.zero_add, List.nil_append] at frame
  unfold State.setAcquired
  conv_lhs => rw [frame]
  rfl

theorem State.nextToken_setAcquired (passes : s.grantsSet q f.positions) :
    (s.setAcquired q r f).nextToken = s.nextToken + f.positions.length := by
  rw [State.setAcquired_eq passes]
  rfl

theorem State.setGranted_closed (s : State) (q : ClientId) (r : Record) (status : Status) (body : Body) (items : List HoldItem)
    (n free : Nat) {evs : List WatchEvent} (nonempty : evs ≠ []) (table : List LockEntry) :
    (((s.recordTaken q).openBatch.setGranted q items n free (s.watchEvents ++ [evs]) table).alsoReplied s q r status body).closeBatch =
      { ((s.replied q r status body).told evs).mapAccount q (fun a => { a with holds := a.holds ++ items }) with
        table := table, nextToken := n, freeEntries := free } := by
  simp only [State.setGranted, State.closeBatch, State.openBatch, State.mapAccount, State.withAccount, State.told, State.replied,
    State.alsoReplied, State.answeredTo, State.withRing, State.recordTaken, State.account, State.ring, State.client,
    closeLast_append, if_neg nonempty]

end

end Sys2Proof.Machine

open Sys2Proof Sys2Proof.Machine in
/-- Settles O17, by induction on the positions. -/
theorem setGrantsEveryName : Obligations.SetGrantsEveryName := by
  intro q s r f ready hf admits passes tokens token lease hold
  have run := takeLockEvent_record Decode.setFields (fun f => f.positions.map Prod.fst) adjustSet setTaken f ready hf
    (by simp [Decode.Opcode.isCommand]) admits _ (setTaken_granted passes) (by rw [State.nextToken_setAcquired passes]; exact tokens)
  have nonempty : eventsOfSet q s.nextToken f.positions.zipIdx ≠ [] := by simpa [eventsOfSet] using positions_ne_nil hf
  have closed : (s.setAcquired q r f).closeBatch = _ :=
    (congrArg State.closeBatch (State.setAcquired_eq passes)).trans (s.setGranted_closed q r _ _ _ _ _ nonempty _)
  refine ⟨_, run, ?_, fun p name m hp => ?_, fun name apart => ?_⟩
  · exact closed.trans rfl
  · have found := State.lookup_grantAll (lease := lease) (tag := Decode.tag r) (n := s.nextToken) f.positions 0 p
      (s.recordTaken q).openBatch passes.recordTaken rfl hp
    rw [Nat.zero_add] at found
    exact found
  · exact State.lookup_grantAll_other f.positions apart _ passes.recordTaken
end

section
/-! PROOFS. A set that meets a name not grantable at once (R38). -/

namespace Sys2Proof.Machine

section
variable {s : State} {q : ClientId} {r : Record} {f : Decode.SetFields}

/-! ## The marked positions -/

theorem State.blocks_iff (s : State) (p : Name × Mode) :
    s.blocks p = true ↔ ∃ e, s.entry? p.1 = some e ∧ ¬ e.admitsAtOnce p.2 := by
  unfold State.blocks
  cases s.entry? p.1 with
  | none => simp
  | some e => simp [← LockEntry.grantableNow_iff]

theorem State.testBit_blockedBitmap (s : State) (ps : List (Name × Mode)) : ∀ j : Nat,
    (s.blockedBitmap ps).testBit j = true ↔ ∃ p, ps[j]? = some p ∧ s.blocks p = true := by
  induction ps with
  | nil => intro j; simp [State.blockedBitmap]
  | cons p ps ih =>
    intro j
    unfold State.blockedBitmap
    cases j with
    | zero => cases h : s.blocks p <;> simp [h, Nat.testBit_zero]
    | succ j =>
      have half : ((if s.blocks p = true then 1 else 0) + 2 * s.blockedBitmap ps) / 2 = s.blockedBitmap ps := by
        split <;> omega
      rw [Nat.testBit_succ, half, ih j, List.getElem?_cons_succ]

theorem State.blockedBitmap_congr {s t : State} (same : ∀ p, t.blocks p = s.blocks p) (ps : List (Name × Mode)) :
    t.blockedBitmap ps = s.blockedBitmap ps := by
  induction ps with
  | nil => rfl
  | cons p ps ih => rw [State.blockedBitmap, State.blockedBitmap, same, ih]

theorem State.find_blocks {ps : List (Name × Mode)} {k : Nat} {p : Name × Mode} (hk : ps[k]? = some p) (blocked : s.blocks p = true)
    (lowest : ∀ j x, j < k → ps[j]? = some x → ¬ s.blocks x = true) : ps.find? s.blocks = some p := by
  obtain ⟨inside, at_k⟩ := List.getElem?_eq_some_iff.mp hk
  refine List.find?_eq_some_iff_getElem.mpr ⟨blocked, k, inside, at_k, fun j hj => ?_⟩
  simpa using lowest j _ hj (List.getElem?_eq_getElem (hj.trans inside))

/-! ## The contention counts -/

theorem State.lookup_contendAt (s : State) (name other : Name) :
    (s.contendAt name).entry? other = if other = name then (s.entry? other).map LockEntry.contend else s.entry? other := by
  unfold State.contendAt
  cases he : s.entry? name with
  | none =>
    dsimp only
    split
    · rename_i same
      rw [same, he]
      rfl
    · rfl
  | some e =>
    dsimp only
    have hn : e.name = name := State.name_of_lookup he
    rw [State.lookup_storeEntry, show e.contend.name = name from hn]
    split
    · rename_i same
      rw [if_pos same.symm, ← same, he]
      rfl
    · rename_i apart
      rw [if_neg (Ne.symm apart)]

theorem State.lookup_contendAll (ps : List (Name × Mode)) (name : Name) : ∀ s : State, (ps.map Prod.fst).Nodup →
    (s.contendAll ps).entry? name = if name ∈ ps.map Prod.fst then (s.entry? name).map LockEntry.contend else s.entry? name := by
  induction ps with
  | nil => intro s _; rfl
  | cons p ps ih =>
    intro s nodup
    obtain ⟨fresh, nodup⟩ := List.nodup_cons.mp nodup
    rw [show s.contendAll (p :: ps) = (s.contendAt p.1).contendAll ps from rfl, ih _ nodup, State.lookup_contendAt]
    by_cases same : name = p.1
    · rw [if_neg (same ▸ fresh), if_pos same, if_pos (by simp [same])]
    · simp only [List.map_cons, List.mem_cons, same, false_or, if_false]

theorem State.contendAll_eq (ps : List (Name × Mode)) : ∀ s : State, ∃ table, s.contendAll ps = { s with table := table } := by
  induction ps with
  | nil => exact fun s => ⟨s.table, rfl⟩
  | cons p ps ih =>
    intro s
    obtain ⟨first, step⟩ : ∃ table, s.contendAt p.1 = { s with table := table } := by
      unfold State.contendAt
      split
      · exact ⟨_, rfl⟩
      · exact ⟨s.table, rfl⟩
    obtain ⟨table, rest⟩ := ih (s.contendAt p.1)
    exact ⟨table, rest.trans (by rw [step])⟩

/-! ## The refusal -/

/-- The blockers of a set have their contention counts raised, and the set is answered BUSY (R38). -/
def State.setBlocked (s : State) (q : ClientId) (r : Record) (f : Decode.SetFields) (report : Report) : State :=
  ((s.recordTaken q).openBatch.contendAll (f.positions.filter s.blocks)).alsoReplied s q r .busy
    (.busy report (s.blockedBitmap f.positions))

theorem setTaken_blocked (distinct : (f.positions.map Prod.fst).Nodup)
    (apart : ∀ n ∈ f.positions.map Prod.fst, ∀ e, s.entry? n = some e → e.without q)
    (quota : (s.account q).holds.length + f.positions.length ≤ (s.client q).config.holdQuota)
    (room : (f.positions.filter (fun p => (s.entry? p.1).isNone)).length ≤ s.freeEntries)
    {k : Nat} {p : Name × Mode} (hk : f.positions[k]? = some p) (blocked : s.blocks p = true)
    (lowest : ∀ j x, j < k → f.positions[j]? = some x → ¬ s.blocks x = true) {e : LockEntry} {i : SlotId} {h : Holder}
    (he : s.entry? p.1 = some e) (first : e.firstHeld i h) :
    setTaken (s.takenAs q r) (s.setPassed q r f) (s.recordTaken q).openBatch =
      s.setBlocked q r f (e.reportWith h e.waiters.length) := by
  obtain ⟨positions, _⟩ := s.setPassed_fields q r f
  have report : (s.recordTaken q).openBatch.setReport f.positions = e.reportWith h e.waiters.length := by
    rw [State.setReport, show f.positions.find? (s.recordTaken q).openBatch.blocks = some p from s.find_blocks hk blocked lowest,
      Option.bind_some, show (s.recordTaken q).openBatch.entry? p.1 = some e from he]
    exact LockEntry.report_eq first _
  have some : f.positions.any (s.recordTaken q).openBatch.blocks = true := List.any_eq_true.mpr ⟨p, List.mem_of_getElem? hk, blocked⟩
  have noConflict : (s.recordTaken q).openBatch.setConflict q f.positions = none := (setConflict_none_iff _ _ _).mpr apart
  have enough : ¬ (s.recordTaken q).openBatch.freeEntries < (f.positions.filter (s.recordTaken q).openBatch.absent).length :=
    not_lt.mpr room
  have few : ¬ ((s.recordTaken q).openBatch.client q).config.holdQuota <
      ((s.recordTaken q).openBatch.account q).holds.length + f.positions.length := not_lt.mpr quota
  rw [setTaken, positions, (repeatsName_iff _).mpr distinct, if_neg (by decide), show (s.takenAs q r).client = q from rfl, noConflict]
  dsimp only
  rw [if_neg few, if_neg enough, if_pos some, report, State.answerWith_eq,
    State.blockedBitmap_congr (s := s) (t := (s.recordTaken q).openBatch) (fun _ => rfl)]
  rfl

theorem State.setBlocked_closed (report : Report) : ∃ table, (s.setBlocked q r f report).closeBatch =
    { s.replied q r .busy (.busy report (s.blockedBitmap f.positions)) with table := table } := by
  obtain ⟨table, same⟩ := State.contendAll_eq (f.positions.filter s.blocks) (s.recordTaken q).openBatch
  refine ⟨table, ?_⟩
  rw [State.setBlocked, same]
  simp only [State.closeBatch, State.openBatch, State.replied, State.alsoReplied, State.answeredTo, State.withRing,
    State.recordTaken, State.ring, State.client, closeLast_append, if_true]

theorem State.nextToken_setBlocked (report : Report) : (s.setBlocked q r f report).nextToken = s.nextToken := by
  obtain ⟨table, same⟩ := State.contendAll_eq (f.positions.filter s.blocks) (s.recordTaken q).openBatch
  rw [State.setBlocked, same]
  rfl

theorem State.lookup_setBlocked (report : Report) (name : Name) (distinct : (f.positions.map Prod.fst).Nodup) :
    (s.setBlocked q r f report).closeBatch.entry? name =
      if name ∈ (f.positions.filter s.blocks).map Prod.fst then (s.entry? name).map LockEntry.contend else s.entry? name :=
  State.lookup_contendAll _ name (s.recordTaken q).openBatch (distinct.sublist (List.filter_sublist.map Prod.fst))

end

end Sys2Proof.Machine

open Sys2Proof Sys2Proof.Machine in
/-- Settles O19: the positions that are marked are those that block the set. -/
theorem setBusyMarksTheBlockers : Obligations.SetBusyMarksTheBlockers := by
  intro q s r f ready hf admits distinct apart quota room marked k e i h atK lowest first
  have marked_iff : ∀ j, (∃ p, f.positions[j]? = some p ∧ s.blocks p = true) ↔ ∃ d, marked j d := fun j => by
    simp only [marked, State.blocks_iff]
    exact ⟨fun ⟨p, hp, d, hd, blocked⟩ => ⟨d, p.1, p.2, hp, hd, blocked⟩,
      fun ⟨d, name, m, hp, hd, blocked⟩ => ⟨(name, m), hp, d, hd, blocked⟩⟩
  obtain ⟨name, m, hk, he, blocked⟩ := atK
  have taken := setTaken_blocked (r := r) distinct apart quota room hk ((s.blocks_iff _).mpr ⟨e, he, blocked⟩)
    (fun j x hj hx bad => by
      obtain ⟨d, at_j⟩ := (marked_iff j).mp ⟨x, hx, bad⟩
      exact lowest j d hj at_j) he first
  have run := takeLockEvent_record Decode.setFields (fun f => f.positions.map Prod.fst) adjustSet setTaken f ready hf
    (by simp [Decode.Opcode.isCommand]) admits _ taken (by rw [State.nextToken_setBlocked]; exact ready.tokens)
  obtain ⟨table, closed⟩ := State.setBlocked_closed (s := s) (q := q) (r := r) (f := f) (e.reportWith h e.waiters.length)
  have lookup := fun n => State.lookup_setBlocked (s := s) (q := q) (r := r) (e.reportWith h e.waiters.length) n distinct
  refine ⟨_, s.blockedBitmap f.positions, run, ?_, fun j => ?_, fun j d name m at_j hj => ?_, fun name never => ?_⟩
  · rw [closed]
  · rw [State.testBit_blockedBitmap, marked_iff]
  · obtain ⟨name', m', hj', hd, bad⟩ := at_j
    obtain ⟨rfl, rfl⟩ : name' = name ∧ m' = m := by simpa using hj'.symm.trans hj
    have mem : name' ∈ (f.positions.filter s.blocks).map Prod.fst :=
      List.mem_map.mpr ⟨(name', m'), List.mem_filter.mpr ⟨List.mem_of_getElem? hj, (s.blocks_iff _).mpr ⟨d, hd, bad⟩⟩, rfl⟩
    rw [lookup, if_pos mem, hd]
    rfl
  · rw [lookup, if_neg]
    rintro mem
    obtain ⟨⟨_, m⟩, hp, rfl⟩ := List.mem_map.mp mem
    obtain ⟨hp, bad⟩ := List.mem_filter.mp hp
    obtain ⟨j, hj⟩ := List.getElem?_of_mem hp
    obtain ⟨d, at_j⟩ := (marked_iff j).mp ⟨_, hj, bad⟩
    exact never j d m at_j hj
end

section
/-! PROOFS. Events whose grants would pass the end of the token counter (R17, R149). -/

namespace Sys2Proof.Machine

section
variable {s t : State} {q : ClientId} {r : Record}

theorem takeLockEvent_record_tokenSpace {α : Type} {op : Decode.Opcode} (read : Record → Option α) (names : α → List Name)
    (adjust : Limits → α → α) (owner : Taken → α → State → State) (f : α) (ready : Ready s q op r) (hf : read r = some f)
    (hp : op.isCommand = true → q = 0) (admits : s.windowAdmits q (names f))
    (taken : owner (s.takenAs q r) (if (s.takenAs q r).cap.isSome then adjust s.limits f else f) (s.recordTaken q).openBatch = t)
    (beyond : 2 ^ 64 < t.nextToken) :
    takeLockEvent s (fun s1 => s1.takeRecord q op read names adjust owner) = .next (s.quiet.halt .tokenSpace) := by
  refine takeLockEvent_tokenSpace s t _ ready.running ?_ beyond
  rw [← taken]
  exact State.takeRecord_passed s.quiet.openBatch q op r read names adjust owner f ready.inHand ready.decoded hf
    (fun ⟨a, b⟩ => b (hp a)) ((all_admits_iff s q _).mpr admits)

/-! ## Grants at once -/

theorem State.nextToken_acquired {f : Decode.AcquireFields} (grantable : s.acquirable q f) :
    (s.acquired q r f).nextToken = s.nextToken + 1 := by
  have admits : ∀ e, s.entry? f.name = some e → e.admitsAtOnce f.mode := by
    rcases grantable with ⟨absent, _⟩ | ⟨e, he, _, can⟩
    · intro e he
      rw [absent] at he
      cases he
    · intro d hd
      obtain rfl : e = d := Option.some.inj (he.symm.trans hd)
      exact can
  exact State.nextToken_grantName (s := (s.recordTaken q).openBatch.countRequest q) admits

/-! ## Grants of the pass -/

theorem AtEntry.tokens_grantsHead {w : AtEntry} {x : Waiter} (gone : w.entry.holds = 0) (noUpgrade : w.entry.upgrade = none)
    (head : w.entry.waiters.head? = some x) (fit : w.state.fit x.client) (room : w.state.holdRoom x.client) :
    w.state.nextToken < w.passAndClose.nextToken := by
  obtain ⟨rest, hw⟩ : ∃ rest, w.entry.waiters = x :: rest := List.head?_eq_some_iff.mp head
  have grantable : w.entry.headGrantable x.mode = true := (w.entry.headGrantable_iff _).mpr (.inl gone)
  have pass : w.grantPass = passWaiters rest (w.grantWaiter x) := by
    rw [AtEntry.grantPass, noUpgrade, hw]
    exact passWaiters_grant fit grantable room
  have granted : (w.grantWaiter x).state.nextToken = w.state.nextToken + 1 := by
    rw [AtEntry.grantWaiter_first gone]
    exact State.nextToken_grantedWaiter _ _ _
  have onward := (SameControl.passWaiters rest (w.grantWaiter x)).nextToken
  have closed := (SameControl.close (passWaiters rest (w.grantWaiter x))).nextToken
  rw [AtEntry.passAndClose, pass]
  omega

/-- A client is not brought nearer to its quota by the loss of a hold. -/
theorem State.holdRoom_dropHold {c d : ClientId} {x : Token} (room : s.holdRoom c) : (s.dropHold d x).holdRoom c := by
  have fewer : ((s.dropHold d x).account c).holds.length ≤ (s.account c).holds.length := by
    by_cases same : c = d
    · subst same
      rw [State.dropHold, State.account_setAccount_self]
      exact List.length_filter_le _ _
    · rw [State.dropHold, State.account_setAccount_of_ne _ _ _ _ same]
  exact lt_of_le_of_lt fewer room

theorem State.holdRoom_loseToken {c d : ClientId} {x : Token} (room : s.holdRoom c) : (s.loseToken d x).holdRoom c := by
  have same : ((s.loseToken d x).account c).holds = (s.account c).holds := by
    by_cases hc : c = d
    · subst hc
      rw [State.loseToken, State.account_setAccount_self]
    · rw [State.loseToken, State.account_setAccount_of_ne _ _ _ _ hc]
  exact (congrArg List.length same).trans_lt room

theorem State.holdRoom.of_same (room : s.holdRoom q) (account : t.account q = s.account q) (clients : t.clients = s.clients) :
    t.holdRoom q := by
  rw [State.holdRoom, account, State.client, clients]
  exact room

theorem State.fit.of_clients {c : ClientId} (fit : s.fit c) (clients : t.clients = s.clients) : t.fit c := by
  simpa only [State.fit, State.client, clients] using fit

@[simp] theorem State.account_charged (s : State) (c d : ClientId) (amount : Nat) :
    (s.charged c amount).account d = s.account d := rfl

@[simp] theorem State.clients_charged (s : State) (c : ClientId) (amount : Nat) : (s.charged c amount).clients = s.clients := rfl

/-- The entry has no pending upgrade, and its head waiter would be granted once nobody holds the lock (R47 to R50). -/
def LockEntry.passGrants (e : LockEntry) (s : State) : Prop :=
  e.upgrade = none ∧ ∃ x, e.waiters.head? = some x ∧ s.fit x.client ∧ s.holdRoom x.client

theorem exec_release_tokenSpace {f : Decode.HoldFields} {e : LockEntry} {i : SlotId} {h : Holder} (ready : Ready s q .release r)
    (hf : Decode.holdFields r = some f) (admits : s.windowAdmits q [f.name]) (held : s.holdsAt q f.name f.token e i h)
    (sole : e.sole i h) (grants : e.passGrants s) (last : s.nextToken = 2 ^ 64) :
    exec (.release q) s = .next (s.quiet.halt .tokenSpace) := by
  obtain ⟨noUpgrade, x, head, fit, room⟩ := grants
  have dropped : ((s.recordTaken q).openBatch.dropHold h.client h.token).holdRoom x.client :=
    State.holdRoom_dropHold (room.of_same rfl rfl)
  have room' : (s.letGo q r e.name h).holdRoom x.client :=
    dropped.of_same (by simp [State.letGo, State.toldReleased, State.alsoReplied])
      (by simp [State.letGo, State.toldReleased, State.alsoReplied])
  have beyond := AtEntry.tokens_grantsHead (w := { entry := e.setSlot i none, state := s.letGo q r e.name h })
    (LockEntry.holds_vacated_zero sole.2) noUpgrade head (fit.of_clients (s.clients_letGo q r e.name h)) room'
  have taken : releaseTaken (s.takenAs q r) f (s.recordTaken q).openBatch =
      AtEntry.passAndClose { entry := e.setSlot i none, state := s.letGo q r e.name h } :=
    releaseTaken_found held (AtEntry.holdLeaves_noUpgrade noUpgrade)
  refine takeLockEvent_record_tokenSpace Decode.holdFields (fun f => [f.name]) noAdjust releaseTaken f ready hf
    (by simp [Decode.Opcode.isCommand]) admits ((congrArg (releaseTaken _ · _) (ite_self _)).trans taken) ?_
  exact lt_of_eq_of_lt (last.symm.trans (s.nextToken_letGo q r e.name h).symm) beyond

theorem exec_leaseExpiry_tokenSpace {e : LockEntry} {i : SlotId} {h : Holder} (running : s.engine = .running)
    (he : s.entry? e.name = some e) (sole : e.sole i h) (raised : h.expiryRaised = true) (grants : e.passGrants s)
    (last : s.nextToken = 2 ^ 64) : exec (.leaseExpiry e.name h.token) s = .next (s.quiet.halt .tokenSpace) := by
  obtain ⟨noUpgrade, x, head, fit, room⟩ := grants
  have only : ∀ (j : SlotId) (k : Holder), e.slots[j] = some k → k.token = h.token → j = i := fun j k hk _ => by
    by_contra other
    rw [sole.2 j other] at hk
    cases hk
  have dropped : ((s.quiet.openBatch.dropHold h.client h.token).loseToken h.client h.token).holdRoom x.client :=
    State.holdRoom_loseToken (State.holdRoom_dropHold (room.of_same rfl rfl))
  have room' : (s.quiet.expiredHold e.name h).holdRoom x.client :=
    dropped.of_same (by simp [State.expiredHold, State.lostHold, State.toldLost])
      (by simp [State.expiredHold, State.lostHold, State.toldLost])
  have beyond := AtEntry.tokens_grantsHead (w := { entry := e.setSlot i none, state := s.quiet.expiredHold e.name h })
    (LockEntry.holds_vacated_zero sole.2) noUpgrade head (fit.of_clients (s.quiet.clients_expiredHold e.name h)) room'
  have taken := (leaseExpiryAt_eq (s := s.quiet.openBatch) he sole.1 raised only).trans
    (congrArg some (AtEntry.holdLeaves_noUpgrade noUpgrade))
  refine takeLockEvent_tokenSpace s _ _ running taken ?_
  exact lt_of_eq_of_lt (last.symm.trans (s.quiet.nextToken_expiredHold e.name h).symm) beyond

end

end Sys2Proof.Machine

open Sys2Proof Sys2Proof.Machine in
/-- Settles O16: each of the four events draws a token beyond the last. -/
theorem tokenSpaceHaltsTheEngine : Obligations.TokenSpaceHaltsTheEngine := by
  intro q s r halted passGrants
  refine ⟨fun f ready hf admits room last grantable => ?_, fun f ready hf admits passes beyond => ?_,
    fun f e i h ready hf admits held sole grants last => ?_, fun name e i h running he sole raised grants last => ?_⟩
  · refine takeLockEvent_record_tokenSpace Decode.acquireFields (fun f => [f.name]) adjustAcquire acquireTaken f ready hf
      (by simp [Decode.Opcode.isCommand]) admits (acquireTaken_passed room grantable) ?_
    rw [State.nextToken_acquired grantable, last]
    exact Nat.lt_succ_self _
  · refine takeLockEvent_record_tokenSpace Decode.setFields (fun f => f.positions.map Prod.fst) adjustSet setTaken f ready hf
      (by simp [Decode.Opcode.isCommand]) admits (setTaken_granted passes) ?_
    rw [State.nextToken_setAcquired passes]
    exact beyond
  · exact exec_release_tokenSpace ready hf admits held sole grants last
  · obtain rfl : e.name = name := State.name_of_lookup he
    exact exec_leaseExpiry_tokenSpace running he sole raised grants last
end

section
/-! PROOFS. A record that an event at a lock entry answers at once, without a grant. -/

namespace Sys2Proof.Machine

section
variable {s t : State} {q : ClientId} {r : Record} {status : Status} {body : Body}

/-- An answer hands on no watch event, so the batch of its event leaves no trace. -/
theorem State.closeBatch_alsoReplied (t s : State) (q : ClientId) (r : Record) (status : Status) (body : Body) :
    (t.openBatch.alsoReplied s q r status body).closeBatch = t.alsoReplied s q r status body :=
  (congrArg State.closeBatch (answeredTo_openBatch t q _)).trans (closeBatch_openBatch _)

theorem takeLockEvent_record_answered {α : Type} {op : Decode.Opcode} (read : Record → Option α) (names : α → List Name)
    (adjust : Limits → α → α) (owner : Taken → α → State → State) (f : α) (ready : Ready s q op r) (hf : read r = some f)
    (hp : op.isCommand = true → q = 0) (admits : s.windowAdmits q (names f)) (same : t.nextToken = s.nextToken)
    (taken : owner (s.takenAs q r) (if (s.takenAs q r).cap.isSome then adjust s.limits f else f) (s.recordTaken q).openBatch =
      t.openBatch.alsoReplied s q r status body) :
    takeLockEvent s (fun s1 => s1.takeRecord q op read names adjust owner) = .next (t.alsoReplied s q r status body) := by
  have tokens : (t.openBatch.alsoReplied s q r status body).nextToken ≤ 2 ^ 64 := by
    rw [State.alsoReplied, State.nextToken_answeredTo]
    exact same ▸ ready.tokens
  rw [takeLockEvent_record read names adjust owner f ready hf hp admits _ taken tokens, State.closeBatch_alsoReplied]

end

end Sys2Proof.Machine
end

section
/-! PROOFS. The refusals of a set, in the order of its checks (R37). -/

namespace Sys2Proof.Machine

/-! ## The first position at which the client holds or waits -/

section
variable {s : State} {c : ClientId} {p : Name × Mode} {ps : List (Name × Mode)} {e : LockEntry}

/-- The client stands nowhere on the named lock (R4). -/
def State.freeOf (s : State) (c : ClientId) (name : Name) : Prop := ∀ e, s.entry? name = some e → e.without c

theorem State.setConflict_free (free : s.freeOf c p.1) : s.setConflict c (p :: ps) = s.setConflict c ps := by
  rw [State.setConflict]
  cases he : s.entry? p.1 with
  | none => rfl
  | some e =>
    obtain ⟨noHold, noWait⟩ := (e.without_iff c).mp (free e he)
    dsimp only
    rw [if_neg (by rw [noHold]; decide), if_neg (by rw [noWait]; decide)]

theorem State.setConflict_holds (he : s.entry? p.1 = some e) (holds : (e.holderOf? c).isSome = true) :
    s.setConflict c (p :: ps) = some .alreadyHeld := by
  rw [State.setConflict, he]
  exact if_pos holds

theorem State.setConflict_waits (he : s.entry? p.1 = some e) (noHold : (e.holderOf? c).isSome = false)
    (waits : (e.waiterOf? c).isSome = true) : s.setConflict c (p :: ps) = some .duplicateWait := by
  rw [State.setConflict, he]
  dsimp only
  rw [if_neg (by rw [noHold]; decide), if_pos waits]

/-- The positions below `k`, at which the client stands nowhere, are passed over. -/
theorem State.setConflict_drop (k : Nat) : ∀ ps : List (Name × Mode),
    (∀ j n, j < k → (ps.map Prod.fst)[j]? = some n → s.freeOf c n) → s.setConflict c ps = s.setConflict c (ps.drop k) := by
  induction k with
  | zero => exact fun _ _ => rfl
  | succ k ih =>
    intro ps free
    cases ps with
    | nil => rfl
    | cons p ps =>
      rw [State.setConflict_free (free 0 p.1 (Nat.succ_pos k) rfl), List.drop_succ_cons]
      exact ih ps fun j n hj hn => free (j + 1) n (Nat.succ_lt_succ hj) hn

theorem State.setConflict_at {k : Nat} {name : Name} (at_k : (ps.map Prod.fst)[k]? = some name)
    (free : ∀ j n, j < k → (ps.map Prod.fst)[j]? = some n → s.freeOf c n) :
    ∃ m rest, s.setConflict c ps = s.setConflict c ((name, m) :: rest) := by
  rw [List.getElem?_map, Option.map_eq_some_iff] at at_k
  obtain ⟨⟨_, m⟩, hp, rfl⟩ := at_k
  obtain ⟨inside, hp⟩ := List.getElem?_eq_some_iff.mp hp
  refine ⟨m, ps.drop (k + 1), ?_⟩
  rw [State.setConflict_drop k ps free, List.drop_eq_getElem_cons inside, hp]

end

/-! ## The refusals -/

section
variable {s : State} {q : ClientId} {r : Record} {f : Decode.SetFields} {status : Status}

theorem setTaken_repeated (repeated : ¬ (f.positions.map Prod.fst).Nodup) :
    setTaken (s.takenAs q r) (s.setPassed q r f) (s.recordTaken q).openBatch =
      ((s.recordTaken q).charged q 2).openBatch.alsoReplied s q r .badRequest .empty := by
  obtain ⟨positions, _⟩ := s.setPassed_fields q r f
  have repeats : repeatsName f.positions = true :=
    (Bool.eq_false_or_eq_true _).resolve_right (mt (repeatsName_iff _).mp repeated)
  rw [setTaken, positions, if_pos repeats, State.answer_eq]
  rfl

section
variable (distinct : (f.positions.map Prod.fst).Nodup)
include distinct

theorem setTaken_conflict (conflict : (s.recordTaken q).openBatch.setConflict q f.positions = some status) :
    setTaken (s.takenAs q r) (s.setPassed q r f) (s.recordTaken q).openBatch =
      (s.recordTaken q).openBatch.alsoReplied s q r status .empty := by
  obtain ⟨positions, _⟩ := s.setPassed_fields q r f
  rw [setTaken, positions, (repeatsName_iff _).mpr distinct, if_neg (by decide), State.takenAs_client, conflict]
  exact State.answer_eq _ _ _ _ _

variable (free : ∀ n ∈ f.positions.map Prod.fst, s.freeOf q n)
include free

theorem setTaken_overQuota (beyond : (s.client q).config.holdQuota < (s.account q).holds.length + f.positions.length) :
    setTaken (s.takenAs q r) (s.setPassed q r f) (s.recordTaken q).openBatch =
      (s.recordTaken q).openBatch.alsoReplied s q r .quotaHolds .empty := by
  obtain ⟨positions, _⟩ := s.setPassed_fields q r f
  have noConflict := (setConflict_none_iff (s.recordTaken q).openBatch q f.positions).mpr free
  rw [setTaken, positions, (repeatsName_iff _).mpr distinct, if_neg (by decide), State.takenAs_client, noConflict]
  exact (if_pos beyond).trans (State.answer_eq _ _ _ _ _)

theorem setTaken_tableFull (quota : (s.account q).holds.length + f.positions.length ≤ (s.client q).config.holdQuota)
    (full : s.freeEntries < (f.positions.filter s.absent).length) :
    setTaken (s.takenAs q r) (s.setPassed q r f) (s.recordTaken q).openBatch =
      (s.recordTaken q).openBatch.alsoReplied s q r .tableFull .empty := by
  obtain ⟨positions, _⟩ := s.setPassed_fields q r f
  have noConflict := (setConflict_none_iff (s.recordTaken q).openBatch q f.positions).mpr free
  rw [setTaken, positions, (repeatsName_iff _).mpr distinct, if_neg (by decide), State.takenAs_client, noConflict]
  exact (if_neg (not_lt.mpr quota)).trans ((if_pos full).trans (State.answer_eq _ _ _ _ _))

end

theorem exec_set_answered {t : State} {body : Body} (ready : Ready s q .tryAcquireSet r) (hf : Decode.setFields r = some f)
    (admits : s.windowAdmits q (f.positions.map Prod.fst)) (same : t.nextToken = s.nextToken)
    (taken : setTaken (s.takenAs q r) (s.setPassed q r f) (s.recordTaken q).openBatch =
      t.openBatch.alsoReplied s q r status body) :
    exec (.tryAcquireSet q) s = .next (t.alsoReplied s q r status body) :=
  takeLockEvent_record_answered Decode.setFields (fun f => f.positions.map Prod.fst) adjustSet setTaken f ready hf
    (by simp [Decode.Opcode.isCommand]) admits same taken

end

end Sys2Proof.Machine

open Sys2Proof Sys2Proof.Machine in
/-- Settles O18: each refusal is the answer of the first check that fails. -/
theorem setRefusalsInOrder : Obligations.SetRefusalsInOrder := by
  intro q s r f ready hf admits names free
  have refused : ∀ status, setTaken (s.takenAs q r) (s.setPassed q r f) (s.recordTaken q).openBatch =
      (s.recordTaken q).openBatch.alsoReplied s q r status .empty →
      exec (.tryAcquireSet q) s = .next (s.replied q r status .empty) :=
    fun _ => exec_set_answered ready hf admits rfl
  have absent : (names.filter (fun n => (s.entry? n).isNone)).length = (f.positions.filter s.absent).length := by
    rw [List.filter_map, List.length_map]
    rfl
  have length : names.length = f.positions.length := List.length_map _
  refine ⟨fun repeated => exec_set_answered (t := (s.recordTaken q).charged q 2) ready hf admits rfl (setTaken_repeated repeated),
    fun k name e distinct at_k before he => ?_, fun distinct apart beyond => ?_, fun distinct apart quota full => ?_⟩
  · obtain ⟨m, rest, first⟩ := State.setConflict_at (s := (s.recordTaken q).openBatch) at_k before
    refine ⟨fun i h hs hc => refused _ (setTaken_conflict distinct (first.trans ?_)),
      fun w hw hc noHold => refused _ (setTaken_conflict distinct (first.trans ?_))⟩
    · exact State.setConflict_holds he (LockEntry.holderOf_isSome hs hc)
    · exact State.setConflict_waits he (LockEntry.holderOf_none noHold) (hc ▸ LockEntry.waiterOf_isSome hw)
  · exact refused _ (setTaken_overQuota distinct apart (length ▸ beyond))
  · exact refused _ (setTaken_tableFull distinct apart (length ▸ quota) (absent ▸ full))
end

section
/-! PROOFS. The refusals of an ACQUIRE, in the order of its checks (R23). -/

namespace Sys2Proof.Machine

/-! ## The checks, one by one -/

section
variable {s : State} {k : Taken} {f : Decode.AcquireFields} {e : LockEntry} {lease : Nat}

theorem acquireTaken_holds (he : s.entry? f.name = some e) (holds : (e.holderOf? k.client).isSome = true) :
    acquireTaken k f s = (s.countRequest k.client).answer k .alreadyHeld := by
  rw [acquireTaken, show (s.countRequest k.client).entry? f.name = some e from he]
  exact if_pos holds

theorem acquireTaken_waits (he : s.entry? f.name = some e) (noHold : (e.holderOf? k.client).isSome = false)
    (waits : (e.waiterOf? k.client).isSome = true) :
    acquireTaken k f s = (s.countRequest k.client).answer k .duplicateWait := by
  rw [acquireTaken, show (s.countRequest k.client).entry? f.name = some e from he]
  dsimp only
  rw [if_neg (by rw [noHold]; decide), if_pos waits]

theorem State.atHoldQuota_countRequest (s : State) (c : ClientId) : (s.countRequest c).atHoldQuota c = s.atHoldQuota c := by
  simp [State.atHoldQuota, State.countRequest]

theorem acquireTaken_overQuota (free : s.freeOf k.client f.name) (noRoom : ¬ s.holdRoom k.client) :
    acquireTaken k f s = (s.countRequest k.client).answer k .quotaHolds := by
  have quota : (s.countRequest k.client).atHoldQuota k.client = true := by
    rw [s.atHoldQuota_countRequest]
    exact (Bool.eq_false_or_eq_true _).resolve_right (mt (s.atHoldQuota_iff _).mp noRoom)
  cases he : s.entry? f.name with
  | none =>
    rw [acquireTaken, show (s.countRequest k.client).entry? f.name = none from he]
    exact if_pos quota
  | some e =>
    obtain ⟨noHold, noWait⟩ := (e.without_iff k.client).mp (free e he)
    rw [acquireTaken, show (s.countRequest k.client).entry? f.name = some e from he]
    dsimp only
    rw [if_neg (by rw [noHold]; decide), if_neg (by rw [noWait]; decide), if_pos quota]

theorem acquireTaken_tableFull (he : s.entry? f.name = none) (room : s.holdRoom k.client) (full : s.freeEntries = 0) :
    acquireTaken k f s = (s.countRequest k.client).answer k .tableFull := by
  have quota : (s.countRequest k.client).atHoldQuota k.client = false :=
    (s.atHoldQuota_countRequest _).trans ((s.atHoldQuota_iff _).mpr room)
  rw [acquireTaken, show (s.countRequest k.client).entry? f.name = none from he]
  dsimp only
  rw [if_neg (by rw [quota]; decide)]
  exact if_pos full

/-- A resident entry that does not admit the request at once blocks it (R13, R23). -/
theorem acquireTaken_blocked (he : s.entry? f.name = some e) (without : e.without k.client) (room : s.holdRoom k.client)
    (blocked : ¬ e.admitsAtOnce f.mode)
    (hl : effectiveLease f.lease (s.client k.client).config.defaultLease k.cap = lease) :
    acquireTaken k f s = acquireBlocked k f lease e (s.countRequest k.client) := by
  subst hl
  have quota : (s.countRequest k.client).atHoldQuota k.client = false :=
    (s.atHoldQuota_countRequest _).trans ((s.atHoldQuota_iff _).mpr room)
  obtain ⟨noHold, noWait⟩ := (e.without_iff k.client).mp without
  rw [acquireTaken, show (s.countRequest k.client).entry? f.name = some e from he]
  dsimp only
  rw [if_neg (by rw [noHold]; decide), if_neg (by rw [noWait]; decide), if_neg (by rw [quota]; decide),
    if_neg (mt (e.grantableNow_iff _).mp blocked)]
  rfl

theorem acquireBlocked_busy (noWait : f.wait = 0) : acquireBlocked k f lease e s =
    (s.storeEntry e.contend).answerWith k .busy (.busy (e.report (e.aheadOf f.priority)) 0) := if_pos noWait

theorem acquireBlocked_overQuota (wait : f.wait ≠ 0) (noRoom : ¬ s.waitRoom k.client) :
    acquireBlocked k f lease e s = (s.storeEntry e.contend).answer k .quotaWaits := by
  have quota : s.atWaitQuota k.client = true :=
    (Bool.eq_false_or_eq_true _).resolve_right (mt (s.atWaitQuota_iff _).mp noRoom)
  rw [acquireBlocked, if_neg wait, if_pos quota]

theorem acquireBlocked_poolEmpty (wait : f.wait ≠ 0) (room : s.waitRoom k.client) (empty : s.poolFree = 0) :
    acquireBlocked k f lease e s = (s.storeEntry e.contend).answer k .poolEmpty := by
  rw [acquireBlocked, if_neg wait, if_neg (by rw [(s.atWaitQuota_iff _).mpr room]; decide), if_pos empty]

theorem acquireBlocked_inserts (wait : f.wait ≠ 0) (room : s.waitRoom k.client) (pool : s.poolFree ≠ 0) :
    acquireBlocked k f lease e s =
      (AtEntry.insert { entry := e, state := s } (newWaiter k f lease (s.account k.client).requests e)).close := by
  rw [acquireBlocked, if_neg wait, if_neg (by rw [(s.atWaitQuota_iff _).mpr room]; decide), if_neg pool]

end

/-! ## The record as intake passes it -/

section
variable {s : State} {q : ClientId} {r : Record} {f : Decode.AcquireFields} {e : LockEntry}

/-- The wait and the priority of an ACQUIRE as intake passes it (R20, R22, R105). -/
theorem State.acquirePassed_wait (s : State) (q : ClientId) (r : Record) (f : Decode.AcquireFields) :
    ((s.acquirePassed q r f).wait = 0 ↔ s.waitFor q f.wait = some 0) ∧
      storedWait (s.acquirePassed q r f).wait = s.waitFor q f.wait ∧
      (s.acquirePassed q r f).priority = s.priorityFor q f.priority := by
  have zero := wait_zero_iff s q r f.wait
  have wait := storedWait_eq s q r f.wait
  have priority := priority_eq s q r f.priority
  unfold State.acquirePassed
  cases h : (s.takenAs q r).cap.isSome <;> rw [h] at zero wait priority <;> exact ⟨zero, wait, priority⟩

/-- The state in which the checks of an ACQUIRE are made: the record taken, and the request counted (R23, R53). -/
def State.asked (s : State) (q : ClientId) : State := (s.recordTaken q).countRequest q

theorem State.account_asked (s : State) (q : ClientId) : (s.asked q).openBatch.account q = (s.account q).asked := by
  rw [State.account_openBatch, State.asked, State.countRequest, State.account_setAccount_self]
  rfl

theorem State.waitRoom_asked (s : State) (q : ClientId) : (s.asked q).openBatch.waitRoom q ↔ s.waitRoom q := by
  rw [State.waitRoom, State.account_asked]
  exact Iff.rfl

theorem exec_acquire_answered {t : State} {status : Status} {body : Body} (ready : Ready s q .acquire r)
    (hf : Decode.acquireFields r = some f) (admits : s.windowAdmits q [f.name]) (same : t.nextToken = s.nextToken)
    (taken : acquireTaken (s.takenAs q r) (s.acquirePassed q r f) (s.recordTaken q).openBatch =
      t.openBatch.alsoReplied s q r status body) :
    exec (.acquire q) s = .next (t.alsoReplied s q r status body) :=
  takeLockEvent_record_answered Decode.acquireFields (fun f => [f.name]) adjustAcquire acquireTaken f ready hf
    (by simp [Decode.Opcode.isCommand]) admits same taken

theorem exec_acquire_refused {status : Status} (ready : Ready s q .acquire r) (hf : Decode.acquireFields r = some f)
    (admits : s.windowAdmits q [f.name])
    (taken : acquireTaken (s.takenAs q r) (s.acquirePassed q r f) (s.recordTaken q).openBatch =
      (s.asked q).openBatch.answer (s.takenAs q r) status) :
    exec (.acquire q) s = .next ((s.replied q r status .empty).mapAccount q Account.asked) :=
  exec_acquire_answered (t := s.asked q) ready hf admits rfl (taken.trans (State.answer_eq _ _ _ _ _))

/-- A blocked ACQUIRE that does not wait is answered, and the entry's contention count rises (R13). -/
theorem exec_acquire_blocked {status : Status} {body : Body} (ready : Ready s q .acquire r)
    (hf : Decode.acquireFields r = some f) (admits : s.windowAdmits q [f.name]) (he : s.entry? f.name = some e)
    (taken : acquireTaken (s.takenAs q r) (s.acquirePassed q r f) (s.recordTaken q).openBatch =
      ((s.asked q).openBatch.storeEntry e.contend).answerWith (s.takenAs q r) status body) :
    ∃ t, exec (.acquire q) s = .next t ∧
      t = { (s.replied q r status body).mapAccount q Account.asked with table := t.table } ∧
      s.differsAt t f.name (some { e with contention := e.hotter }) :=
  ⟨_, exec_acquire_answered (t := (s.asked q).storeEntry e.contend) ready hf admits rfl
      (taken.trans (State.answerWith_eq _ _ _ _ _ _)),
    rfl, State.differsAt_storeEntry (e := e.contend) (State.name_of_lookup (e := e) he) rfl⟩

/-- An ACQUIRE that its entry blocks, in the fields of the record (R23). -/
theorem acquireTaken_blocked_passed (he : s.entry? f.name = some e) (without : e.without q) (room : s.holdRoom q)
    (blocked : ¬ e.admitsAtOnce f.mode) :
    acquireTaken (s.takenAs q r) (s.acquirePassed q r f) (s.recordTaken q).openBatch =
      acquireBlocked (s.takenAs q r) (s.acquirePassed q r f) (s.leaseFor q f.lease) e (s.asked q).openBatch := by
  obtain ⟨name, mode, lease⟩ := s.acquirePassed_fields q r f
  exact acquireTaken_blocked (s := (s.recordTaken q).openBatch) (k := s.takenAs q r) (name ▸ he) without room
    (mode ▸ blocked) lease

end

end Sys2Proof.Machine

open Sys2Proof Sys2Proof.Machine in
/-- Settles O14: each refusal is the answer of the first check that fails. -/
theorem acquireRefusalsInOrder : Obligations.AcquireRefusalsInOrder := by
  intro q s r f ready hf admits refused refusedHotter
  obtain ⟨name, _, _⟩ := s.acquirePassed_fields q r f
  obtain ⟨zero, _, priority⟩ := s.acquirePassed_wait q r f
  refine ⟨fun e i h he hs hc => ?_, fun e w he hw hc noHold => ?_, fun free noRoom => ?_, fun absent room full => ?_,
    fun e i h he without room blocked first => ?_⟩
  · exact exec_acquire_refused ready hf admits
      (acquireTaken_holds (s := (s.recordTaken q).openBatch) (name ▸ he) (LockEntry.holderOf_isSome hs hc))
  · exact exec_acquire_refused ready hf admits
      (acquireTaken_waits (s := (s.recordTaken q).openBatch) (k := s.takenAs q r) (name ▸ he) (LockEntry.holderOf_none noHold)
        (hc ▸ LockEntry.waiterOf_isSome hw))
  · exact exec_acquire_refused ready hf admits
      (acquireTaken_overQuota (s := (s.recordTaken q).openBatch) (k := s.takenAs q r) (name ▸ free) noRoom)
  · exact exec_acquire_refused ready hf admits
      (acquireTaken_tableFull (s := (s.recordTaken q).openBatch) (k := s.takenAs q r) (name ▸ absent) room full)
  · have taken := acquireTaken_blocked_passed (r := r) he without room blocked
    have waitRoom := s.waitRoom_asked q
    refine ⟨fun noWait => ?_, fun wait noRoom => ?_, fun wait space empty => ?_⟩
    · refine exec_acquire_blocked ready hf admits he (taken.trans ((acquireBlocked_busy (zero.mpr noWait)).trans ?_))
      rw [LockEntry.report_eq first, priority]
      rfl
    · exact exec_acquire_blocked ready hf admits he
        (taken.trans (acquireBlocked_overQuota (mt zero.mp wait) (mt waitRoom.mp noRoom)))
    · exact exec_acquire_blocked ready hf admits he
        (taken.trans (acquireBlocked_poolEmpty (mt zero.mp wait) (waitRoom.mpr space) empty))
end

section
/-! PROOFS. A blocked ACQUIRE that waits: where its waiter is inserted, and the pass that runs when it stands at the head
(R31, R32, R43, R48, R50). -/

namespace Sys2Proof.Machine

/-! ## The place in the list -/

theorem LockEntry.insertWaiter_eq (x : Waiter) (ws : List Waiter) (ordered : ws.Pairwise (fun a b => a.priority ≤ b.priority)) :
    insertWaiter x ws =
      ws.filter (fun w => w.priority ≤ x.priority) ++ [x] ++ ws.filter (fun w => !(w.priority ≤ x.priority)) := by
  induction ws with
  | nil => rfl
  | cons y ys ih =>
    obtain ⟨least, ordered⟩ := List.pairwise_cons.mp ordered
    rw [insertWaiter]
    split
    · rename_i before
      rw [ih ordered]
      simp [before]
    · rename_i behind
      have later : ∀ w ∈ y :: ys, ¬ w.priority ≤ x.priority := by
        intro w hw
        rcases List.mem_cons.mp hw with rfl | hw
        · exact behind
        · have := least w hw
          omega
      have noneAhead : (y :: ys).filter (fun w => w.priority ≤ x.priority) = [] := by simpa using later
      have allBehind : (y :: ys).filter (fun w => !(w.priority ≤ x.priority)) = y :: ys := by simpa using later
      rw [noneAhead, allBehind]
      rfl

/-- The entry with a waiter in its place, and one more contended request counted (R13, R31). -/
def LockEntry.inserted (e : LockEntry) (x : Waiter) : LockEntry :=
  { e with
    waiters := e.ahead x.priority ++ [x] ++ e.waiters.filter (fun w => !(w.priority ≤ x.priority)), contention := e.hotter }

/-- A waiter's record is taken from the pool, and its client's wait count rises (R31, R42, R44). -/
def State.waiterAdded (s : State) (c : ClientId) : State := { s with poolFree := s.poolFree - 1 }.addWait c

section
variable {s : State} {e : LockEntry} {x : Waiter}

theorem LockEntry.contend_inserted (lawful : e.Lawful) (x : Waiter) :
    { e.contend with waiters := insertWaiter x e.waiters } = e.inserted x := by
  rw [LockEntry.insertWaiter_eq x e.waiters lawful.ordered]
  rfl

theorem LockEntry.waiters_inserted_head (first : e.ahead x.priority = []) : (e.inserted x).waiters = x :: e.waiters := by
  have allBehind : e.waiters.filter (fun w => !(w.priority ≤ x.priority)) = e.waiters := by
    simpa [LockEntry.ahead] using first
  rw [LockEntry.inserted, first, allBehind]
  rfl

theorem LockEntry.headIs_inserted (without : e.without x.client) :
    (e.inserted x).headIs x.client = true ↔ e.ahead x.priority = [] := by
  cases h : e.ahead x.priority with
  | nil => simp [LockEntry.headIs, LockEntry.waiters_inserted_head h]
  | cons y ys =>
    have mem : y ∈ e.waiters := List.mem_of_mem_filter (h ▸ List.mem_cons_self : y ∈ e.ahead x.priority)
    simp [LockEntry.headIs, LockEntry.inserted, h, without.2 y mem]

/-- The insertion of a waiter: the pass runs when no waiter stands ahead (R31, R32). -/
theorem AtEntry.insert_eq (lawful : e.Lawful) (without : e.without x.client) :
    AtEntry.insert { entry := e, state := s } x =
      if e.ahead x.priority = [] then AtEntry.grantPass { entry := e.inserted x, state := s.waiterAdded x.client }
      else { entry := e.inserted x, state := s.waiterAdded x.client } := by
  have head := LockEntry.headIs_inserted without
  rw [← LockEntry.contend_inserted lawful x] at head ⊢
  exact if_congr head rfl rfl

end

/-! ## The pass that finds nobody to let in -/

section
variable {w : AtEntry} {u : PendingUpgrade} {h : Holder}

/-- A pending upgrade beside another holder stays, and the waiters behind it (R46, R47). -/
theorem AtEntry.grantPass_upgradeWaits (hu : w.entry.upgrade = some u) (fit : w.state.fit u.client)
    (hs : w.entry.slots[u.slot] = some h) (many : w.entry.holds ≠ 1) : w.grantPass = w := by
  rw [AtEntry.grantPass, hu]
  dsimp only
  rw [if_neg (by rw [(w.state.unfit_iff _).mpr fit]; decide), hs]
  dsimp only
  rw [LockEntry.holderCount_eq, if_neg many]

theorem AtEntry.grantPass_headBlocked (noUpgrade : w.entry.upgrade = none)
    (stop : ∀ x, w.entry.waiters.head? = some x → w.state.fit x.client ∧ ¬ w.entry.headGrantable x.mode = true) :
    w.grantPass = w := by
  rw [AtEntry.grantPass, noUpgrade]
  exact passWaiters_stop stop

end

section
variable {s : State} {e : LockEntry} {x : Waiter}

/-- The pass of a newcomer that it cannot let in leaves it at the head (R46, R48). -/
theorem AtEntry.grantPass_inserted_stuck (lawful : e.Lawful) (first : e.ahead x.priority = []) (fit : s.fit x.client)
    (upgradeFit : ∀ u, e.upgrade = some u → s.fit u.client)
    (blocked : e.upgrade = none → ¬ (x.mode = .shared ∧ e.mode = .shared ∧ ∃ j, e.lowestFree j)) :
    AtEntry.grantPass { entry := e.inserted x, state := s.waiterAdded x.client } =
      { entry := e.inserted x, state := s.waiterAdded x.client } := by
  cases hu : e.upgrade with
  | some u =>
    obtain ⟨_, two, h, hs, _⟩ := lawful.upgrade u hu
    have many : e.holds ≠ 1 := by omega
    exact AtEntry.grantPass_upgradeWaits (w := { entry := e.inserted x, state := s.waiterAdded x.client }) hu
      (upgradeFit u hu) hs many
  | none =>
    refine AtEntry.grantPass_headBlocked (w := { entry := e.inserted x, state := s.waiterAdded x.client }) hu fun y hy => ?_
    rw [LockEntry.waiters_inserted_head first, List.head?_cons, Option.some.injEq] at hy
    subst hy
    refine ⟨fit, mt ((e.inserted x).headGrantable_iff x.mode).mp ?_⟩
    rintro (gone | free)
    · exact absurd lawful.held (Nat.not_le.mpr (Nat.lt_one_iff.mpr gone))
    · exact blocked hu free

/-- A waiter inserted for good: nobody is let in, and the entry is stored (R31, R32). -/
theorem AtEntry.close_insert_waits (lawful : e.Lawful) (without : e.without x.client)
    (stays : e.ahead x.priority ≠ [] ∨ (s.fit x.client ∧ (∀ u, e.upgrade = some u → s.fit u.client) ∧
      (e.upgrade = none → ¬ (x.mode = .shared ∧ e.mode = .shared ∧ ∃ j, e.lowestFree j)))) :
    (AtEntry.insert { entry := e, state := s } x).close = (s.waiterAdded x.client).storeEntry (e.inserted x) := by
  have same : AtEntry.insert { entry := e, state := s } x = { entry := e.inserted x, state := s.waiterAdded x.client } := by
    rw [AtEntry.insert_eq lawful without]
    split
    · rename_i first
      rcases stays with behind | ⟨fit, upgradeFit, blocked⟩
      · exact absurd first behind
      · exact AtEntry.grantPass_inserted_stuck lawful first fit upgradeFit blocked
    · rfl
  rw [same]
  exact AtEntry.close_held (w := { entry := e.inserted x, state := s.waiterAdded x.client })
    (Nat.one_le_iff_ne_zero.mp lawful.held)

/-! ## The pass that lets the newcomer in -/

theorem State.clients_grantedWaiter (s : State) (name : Name) (x : Waiter) : (s.grantedWaiter name x).clients = s.clients := by
  simp [State.grantedWaiter, State.returnWaiter, State.drawToken]

/-- Beside a grant in slot `j`, the next waiter is not grantable when it is EXCLUSIVE or no slot is left (R48). -/
theorem LockEntry.headGrantable_seated {j : SlotId} {h : Holder} {m : Mode}
    (next : m = .exclusive ∨ ∀ k, k ≠ j → e.slots[k] ≠ none) : ¬ (e.setSlot j (some h)).headGrantable m = true := by
  rw [LockEntry.headGrantable_iff]
  rintro (gone | ⟨shared, _, i, free, _⟩)
  · exact LockEntry.holds_seated gone
  · rcases next with exclusive | full
    · exact absurd (exclusive.symm.trans shared) (by decide)
    · rw [LockEntry.slots_setSlot] at free
      split at free
      · cases free
      · rename_i apart
        exact full i apart free

/-- A SHARED newcomer at the head of a SHARED entry with a free slot is granted by its own pass (R32, R48, R50). -/
theorem AtEntry.close_insert_granted {j : SlotId} (lawful : e.Lawful) (without : e.without x.client)
    (first : e.ahead x.priority = []) (fit : s.fit x.client) (room : (s.waiterAdded x.client).holdRoom x.client)
    (noUpgrade : e.upgrade = none) (shared : x.mode = .shared) (mode : e.mode = .shared) (free : e.lowestFree j)
    (next : ∀ y, e.waiters.head? = some y → s.fit y.client ∧ (y.mode = .exclusive ∨ ∀ k, k ≠ j → e.slots[k] ≠ none)) :
    (AtEntry.insert { entry := e, state := s } x).close =
      ((s.waiterAdded x.client).grantedWaiter e.name x).storeEntry
        { e.setSlot j (some (grantedHold x.client s.nextToken .shared x.lease x.tag)) with contention := e.hotter } := by
  have grantable : (e.inserted x).headGrantable x.mode = true :=
    ((e.inserted x).headGrantable_iff x.mode).mpr (.inr ⟨shared, mode, j, free⟩)
  have granted : AtEntry.grantWaiter { entry := e.inserted x, state := s.waiterAdded x.client } x =
      { entry := (e.inserted x).setSlot j (some (grantedHold x.client s.nextToken .shared x.lease x.tag)),
        state := (s.waiterAdded x.client).grantedWaiter e.name x } := by
    have stays : (if (e.inserted x).holds = 0 then x.mode else (e.inserted x).mode) = (e.inserted x).mode := by
      rw [shared, show (e.inserted x).mode = .shared from mode, ite_self]
    rw [AtEntry.grantWaiter_eq (i := j) free, stays, shared]
    rfl
  have pass : AtEntry.grantPass { entry := e.inserted x, state := s.waiterAdded x.client } =
      AtEntry.queue { entry := (e.inserted x).setSlot j (some (grantedHold x.client s.nextToken .shared x.lease x.tag)),
                      state := (s.waiterAdded x.client).grantedWaiter e.name x } e.waiters := by
    rw [AtEntry.grantPass, show (e.inserted x).upgrade = none from noUpgrade]
    dsimp only
    rw [LockEntry.waiters_inserted_head first, passWaiters_grant fit grantable room, granted]
    exact passWaiters_stop fun y hy => ⟨(next y hy).1.of_clients (State.clients_grantedWaiter _ _ _),
      LockEntry.headGrantable_seated (next y hy).2⟩
  rw [AtEntry.insert_eq lawful without, if_pos first, pass]
  exact AtEntry.close_held LockEntry.holds_seated

end

end Sys2Proof.Machine
end

section
/-! PROOFS. A blocked ACQUIRE that waits, told in the words of the claim (R31, R32). -/

namespace Sys2Proof.Machine

/-- An ACQUIRE passes every check of R23 and has to wait at the resident entry `e`, whose first holder is `h`. -/
structure State.acquireWaits (s : State) (q : ClientId) (f : Decode.AcquireFields) (e : LockEntry) (i : SlotId) (h : Holder) :
    Prop where
  resident : s.entry? f.name = some e
  without : e.without q
  room : s.holdRoom q
  blocked : ¬ e.admitsAtOnce f.mode
  first : e.firstHeld i h
  wait : s.waitFor q f.wait ≠ some 0
  space : s.waitRoom q
  pool : s.poolFree ≠ 0

/-- The waiter of an ACQUIRE that the holder `h`, the first of the entry, blocks (R31). -/
def State.newcomer (s : State) (q : ClientId) (r : Record) (f : Decode.AcquireFields) (e : LockEntry) (h : Holder) : Waiter :=
  { client := q, tag := Decode.tag r, order := (s.account q).requests + 1, mode := f.mode,
    priority := s.priorityFor q f.priority, wait := s.waitFor q f.wait, lease := s.leaseFor q f.lease, waited := 0,
    report := e.reportWith h (e.ahead (s.priorityFor q f.priority)).length, index := (s.ring q).sqConsumer,
    expiryRaised := false }

section
variable {s : State} {q : ClientId} {r : Record} {f : Decode.AcquireFields} {e : LockEntry} {i : SlotId} {h : Holder}

theorem newWaiter_eq (first : e.firstHeld i h) :
    newWaiter (s.takenAs q r) (s.acquirePassed q r f) (s.leaseFor q f.lease) ((s.asked q).openBatch.account q).requests e =
      s.newcomer q r f e h := by
  obtain ⟨_, mode, _⟩ := s.acquirePassed_fields q r f
  obtain ⟨_, wait, priority⟩ := s.acquirePassed_wait q r f
  rw [newWaiter, mode, wait, priority, LockEntry.report_eq first, State.account_asked]
  rfl

/-- The event of an ACQUIRE that waits is the insertion of its waiter (R23, R31). -/
theorem exec_acquire_inserts (ready : Ready s q .acquire r) (hf : Decode.acquireFields r = some f)
    (admits : s.windowAdmits q [f.name]) (waits : s.acquireWaits q f e i h) {t : State}
    (inserted : (AtEntry.insert { entry := e, state := (s.asked q).openBatch } (s.newcomer q r f e h)).close = t)
    (tokens : t.nextToken ≤ 2 ^ 64) : exec (.acquire q) s = .next t.closeBatch := by
  obtain ⟨he, without, room, blocked, first, wait, space, pool⟩ := waits
  obtain ⟨zero, _, _⟩ := s.acquirePassed_wait q r f
  refine takeLockEvent_record Decode.acquireFields (fun f => [f.name]) adjustAcquire acquireTaken f ready hf
    (by simp [Decode.Opcode.isCommand]) admits t ?_ tokens
  refine (acquireTaken_blocked_passed he without room blocked).trans ?_
  rw [acquireBlocked_inserts (s := (s.asked q).openBatch) (mt zero.mp wait) ((s.waitRoom_asked q).mpr space) pool,
    State.takenAs_client, newWaiter_eq first]
  exact inserted

/-! ## What the event leaves -/

/-- The rest of the block when the newcomer's record is taken from the pool, its counters and watch events aside. -/
theorem State.waiterAdded_asked (s : State) (q : ClientId) : (s.asked q).openBatch.waiterAdded q =
    ((s.recordTaken q).mapAccount q (fun a => a.asked.waiting)).withBooks s.nextToken (s.poolFree - 1) (s.watchEvents ++ [[]]) := by
  simp only [State.asked, State.waiterAdded, State.addWait, State.countRequest, State.withBooks, State.openBatch, State.setAccount,
    State.mapAccount, State.withAccount, State.account, Vector.set_set, Fin.getElem_fin, Vector.getElem_set_self]
  rfl

theorem State.nextToken_waiterAdded (s : State) (q : ClientId) : ((s.asked q).openBatch.waiterAdded q).nextToken = s.nextToken := by
  rw [State.waiterAdded_asked]
  rfl

theorem State.clients_waiterAdded (s : State) (q : ClientId) : ((s.asked q).openBatch.waiterAdded q).clients = s.clients := by
  rw [State.waiterAdded_asked]
  rfl

theorem State.closeBatch_waiterAdded (s : State) (q : ClientId) (d : LockEntry) :
    (((s.asked q).openBatch.waiterAdded q).storeEntry d).closeBatch =
      { (s.recordTaken q).mapAccount q (fun a => a.asked.waiting) with
        table := putEntry d s.table, poolFree := s.poolFree - 1 } := by
  rw [State.waiterAdded_asked]
  simp only [State.withBooks, State.storeEntry, State.closeBatch, closeLast_append, if_true]
  rfl

theorem State.holdRoom_waiterAdded (room : s.holdRoom q) : ((s.asked q).openBatch.waiterAdded q).holdRoom q := by
  have holds : (((s.asked q).openBatch.waiterAdded q).account q).holds = (s.account q).holds := by
    rw [State.waiterAdded_asked]
    simp [State.withBooks, State.mapAccount, State.withAccount, State.account, Account.asked, Account.waiting, State.recordTaken]
  rw [State.holdRoom, holds, State.client, State.clients_waiterAdded]
  exact room

/-- The newcomer granted in its own event: its wait is counted and taken back, and its record is back in the pool (R42, R44). -/
theorem State.closeBatch_newcomerGranted (pool : s.poolFree ≠ 0) (shared : f.mode = .shared) (name : Name) (d : LockEntry) :
    ((((s.asked q).openBatch.waiterAdded q).grantedWaiter name (s.newcomer q r f e h)).storeEntry d).closeBatch =
      { ((s.replied q r .granted (.granted (BitVec.ofNat 64 s.nextToken) (s.leaseFor q f.lease) 0
            (some (e.reportWith h (e.ahead (s.priorityFor q f.priority)).length)) 1)).told
          [{ kind := .granted, name := name, client := q, token := BitVec.ofNat 64 s.nextToken, mode := .shared }]).mapAccount q
            (fun a => a.asked.granted name (BitVec.ofNat 64 s.nextToken)) with
        table := putEntry d s.table, nextToken := s.nextToken + 1 } := by
  have back : s.poolFree - 1 + 1 = s.poolFree := Nat.sub_add_cancel (Nat.one_le_iff_ne_zero.mpr pool)
  rw [State.waiterAdded_asked, State.grantedWaiter_withBooks, State.withBooks_stored _ _ _ _ _ (by simp), back, List.nil_append,
    Waiter.grantedEvent, show (s.newcomer q r f e h).mode = .shared from shared]
  simp only [State.grantTo, State.mapAccount, State.withAccount, State.account, State.told, State.replied, State.answeredTo,
    State.withRing, State.recordTaken, State.ring, State.client, State.newcomer, Vector.set_set, Fin.getElem_fin,
    Vector.getElem_set_self]
  rfl

end

end Sys2Proof.Machine

open Sys2Proof Sys2Proof.Machine in
/-- Settles O15: the waiter is inserted in its place, and its own pass leaves it there or grants it. -/
theorem acquireWaitsInPriorityOrder : Obligations.AcquireWaitsInPriorityOrder := by
  intro q s r f e i h ready hf admits he lawful without room blocked first wait space pool p lease report x
  have hn : e.name = f.name := State.name_of_lookup he
  have run {t : State} := exec_acquire_inserts (t := t) ready hf admits ⟨he, without, room, blocked, first, wait, space, pool⟩
  refine ⟨fun stays => ?_, fun j noneAhead fit noUpgrade shared mode free tokens next => ?_⟩
  · have inserted := AtEntry.close_insert_waits (s := (s.asked q).openBatch) (x := s.newcomer q r f e h) lawful without stays
    refine ⟨_, run inserted ((s.nextToken_waiterAdded q).trans_le ready.tokens), ?_⟩
    rw [show (s.newcomer q r f e h).client = q from rfl, State.closeBatch_waiterAdded]
    exact ⟨rfl, State.differsAt_storeEntry (e := e.inserted (s.newcomer q r f e h)) hn rfl⟩
  · have inserted := AtEntry.close_insert_granted (s := (s.asked q).openBatch) (x := s.newcomer q r f e h) lawful without noneAhead
      fit (State.holdRoom_waiterAdded room) noUpgrade shared mode free next
    rw [hn] at inserted
    refine ⟨_, run inserted ?_, ?_⟩
    · rw [State.nextToken_storeEntry, State.nextToken_grantedWaiter, show (s.newcomer q r f e h).client = q from rfl,
        State.nextToken_waiterAdded]
      exact tokens
    · rw [show (s.newcomer q r f e h).client = q from rfl, State.closeBatch_newcomerGranted pool shared]
      exact ⟨rfl, State.differsAt_storeEntry (e := { e with slots := _, contention := _ }) hn rfl⟩
end

section
/-! PROOFS. The visit of a tick (R56, R82). -/

namespace Sys2Proof.Machine

/-- The state after the sweep's visit of the entry `e` (R81, R82). -/
def State.visitedEntry (s : State) (e : LockEntry) : State :=
  { s.quiet.storeEntry e.visit with clock := { s.clock with sweep := s.clock.sweep.dropEntry e.name } }

theorem exec_tickVisitEntry {s : State} {e : LockEntry} (running : s.engine = .running) (he : s.entry? e.name = some e)
    (due : e.name ∈ s.clock.sweep.entries) : exec (.tickVisitEntry e.name) s = .next (s.visitedEntry e) := by
  refine takeEvent_running s _ (visitEntry e.name) running ?_
  rw [visitEntry, show s.quiet.entry? e.name = some e from he]
  dsimp only
  rw [if_pos (show s.quiet.clock.sweep.entries.contains e.name = true from List.contains_iff_mem.mpr due)]
  rfl

end Sys2Proof.Machine

open Sys2Proof Sys2Proof.Machine in
/-- Settles O32: the visit maps over slots, waiters and pending upgrade, and stores the entry. -/
theorem visitCountsEveryCountdown : Obligations.VisitCountsEveryCountdown := by
  intro s name e running he due tick
  obtain rfl : e.name = name := State.name_of_lookup he
  refine ⟨_, e.visit, exec_tickVisitEntry running he due, rfl, State.differsAt_storeEntry rfl rfl, rfl, fun i => ?_, ?_, ?_⟩
  · rw [LockEntry.slots_visit]
    cases e.slots[i] <;> rfl
  · exact List.map_congr_left fun x _ => rfl
  · exact Option.map_congr fun u _ => rfl
end

section
/-! PROOFS. The grant pass, item by item (R46 to R51, R74). -/

namespace Sys2Proof.Machine

/-! ## A wait that ends without a grant -/

/-- The answer of a waiter whose wait ends with this status (R59). -/
def Waiter.ending (x : Waiter) (status : Status) : Response := x.response status (timeoutBody status x.waited x.report)

@[inherit_doc Waiter.ending] def PendingUpgrade.ending (u : PendingUpgrade) (status : Status) : Response :=
  u.response status (timeoutBody status u.waited u.report)

theorem Waiter.ending_of_ne {status : Status} (late : status ≠ .timeout) (x : Waiter) :
    x.ending status = { status := status, tag := x.tag, index := x.index, body := .empty } := by
  rw [Waiter.ending, timeoutBody_of_ne late, Waiter.response]

theorem PendingUpgrade.ending_of_ne {status : Status} (late : status ≠ .timeout) (u : PendingUpgrade) :
    u.ending status = { status := status, tag := u.tag, index := u.index, body := .empty } := by
  rw [PendingUpgrade.ending, timeoutBody_of_ne late, PendingUpgrade.response]

/-- A wait of client `c` is over: it has its answer, and its client one wait less (R44, R59). -/
def State.waitOver (s : State) (c : ClientId) (a : Response) : State := (s.answeredTo c a).mapAccount c Account.waited

theorem State.endWaiter_eq (s : State) (x : Waiter) (status : Status) :
    s.endWaiter x status = { s.waitOver x.client (x.ending status) with poolFree := s.poolFree + 1 } := by
  rw [State.endWaiter, State.respond_eq]
  rfl

theorem AtEntry.endUpgrade_eq (w : AtEntry) (u : PendingUpgrade) (status : Status) :
    w.endUpgrade u status =
      { entry := { w.entry with upgrade := none }, state := w.state.waitOver u.client (u.ending status) } := by
  rw [AtEntry.endUpgrade, State.respond_eq]
  rfl

/-! ## Where the pass stops -/

section
variable {w : AtEntry} {x : Waiter} {rest : List Waiter}

theorem passWaiters_unfit (unfit : ¬ w.state.fit x.client) :
    passWaiters (x :: rest) w = passWaiters rest (w.onState (fun s => s.endWaiter x (.cancelled .isolation))) := by
  rw [passWaiters, if_pos (State.unfit_of_not_fit unfit)]

theorem passWaiters_overQuota (fit : w.state.fit x.client) (grantable : w.entry.headGrantable x.mode = true)
    (full : ¬ w.state.holdRoom x.client) :
    passWaiters (x :: rest) w = passWaiters rest (w.onState (fun s => s.endWaiter x .quotaHolds)) := by
  have quota : w.state.atHoldQuota x.client = true := by
    rwa [← Bool.not_eq_false, State.atHoldQuota_iff]
  rw [passWaiters, if_neg (by rw [(w.state.unfit_iff _).mpr fit]; decide), if_pos grantable, if_pos quota]

theorem AtEntry.upgrade_grantWaiter (w : AtEntry) (x : Waiter) : (w.grantWaiter x).entry.upgrade = w.entry.upgrade := by
  rw [AtEntry.grantWaiter, AtEntry.onState, AtEntry.grantHold]
  split <;> rfl

/-- The pass stops at its head waiter, or goes on with the rest. -/
theorem passWaiters_cases (x : Waiter) (rest : List Waiter) (w : AtEntry) :
    (w.state.fit x.client ∧ ¬ w.entry.headGrantable x.mode = true ∧ passWaiters (x :: rest) w = w.queue (x :: rest)) ∨
      ∃ v : AtEntry, v.entry.upgrade = w.entry.upgrade ∧ passWaiters (x :: rest) w = passWaiters rest v := by
  by_cases fit : w.state.fit x.client
  · by_cases grantable : w.entry.headGrantable x.mode = true
    · by_cases room : w.state.holdRoom x.client
      · exact .inr ⟨_, w.upgrade_grantWaiter x, passWaiters_grant fit grantable room⟩
      · exact .inr ⟨w.onState _, rfl, passWaiters_overQuota fit grantable room⟩
    · refine .inl ⟨fit, grantable, passWaiters_stop fun y hy => ?_⟩
      obtain rfl : x = y := Option.some.inj hy
      exact ⟨fit, grantable⟩
  · exact .inr ⟨w.onState _, rfl, passWaiters_unfit fit⟩

/-- What a pass over the list `xs` leaves of it, in the event `v`: its end, with a head that is not grantable (R47, R48, R51). -/
structure AtEntry.StoppedIn (v : AtEntry) (xs : List Waiter) : Prop where
  tail : ∃ done, xs = done ++ v.entry.waiters
  blocked : ∀ x, v.entry.waiters.head? = some x → v.state.fit x.client ∧ ¬ v.entry.headGrantable x.mode = true

theorem passWaiters_stopped (xs : List Waiter) : ∀ w : AtEntry,
    (passWaiters xs w).StoppedIn xs ∧ (passWaiters xs w).entry.upgrade = w.entry.upgrade := by
  induction xs with
  | nil => exact fun w => ⟨⟨⟨[], rfl⟩, fun x hx => nomatch hx⟩, rfl⟩
  | cons x rest ih =>
    intro w
    rcases passWaiters_cases x rest w with ⟨fit, blocked, stop⟩ | ⟨v, upgrade, onward⟩
    · rw [stop]
      refine ⟨⟨⟨[], rfl⟩, fun y hy => ?_⟩, rfl⟩
      obtain rfl : x = y := Option.some.inj hy
      exact ⟨fit, blocked⟩
    · obtain ⟨⟨⟨done, tail⟩, blocked⟩, same⟩ := ih v
      rw [onward]
      exact ⟨⟨⟨x :: done, congrArg (x :: ·) tail⟩, blocked⟩, same.trans upgrade⟩

/-- The pass goes over the list, with no pending upgrade left; or one stands at the head, and is converted or stays (R46). -/
theorem AtEntry.grantPass_cases (w : AtEntry) :
    (∃ v : AtEntry, v.entry.upgrade = none ∧ w.grantPass = passWaiters w.entry.waiters v) ∨
      (w.entry.upgrade ≠ none ∧ w.grantPass.entry.waiters = w.entry.waiters ∧
        (w.grantPass.entry.upgrade = none ∨ w.grantPass = w)) := by
  rw [AtEntry.grantPass]
  split
  · rename_i noUpgrade
    exact .inl ⟨w, noUpgrade, rfl⟩
  · rename_i u hu
    split
    · exact .inl ⟨_, rfl, rfl⟩
    · refine .inr ⟨by rw [hu]; exact Option.some_ne_none u, ?_⟩
      split
      · split
        · exact ⟨rfl, .inl rfl⟩
        · exact ⟨rfl, .inr rfl⟩
      · exact ⟨rfl, .inr rfl⟩

theorem AtEntry.grantPass_tail (w : AtEntry) : ∃ done, w.entry.waiters = done ++ w.grantPass.entry.waiters := by
  rcases w.grantPass_cases with ⟨v, _, pass⟩ | ⟨_, same, _⟩
  · rw [pass]
    exact (passWaiters_stopped _ v).1.tail
  · exact ⟨[], same.symm⟩

theorem AtEntry.grantPass_upgradeLeft (left : w.grantPass.entry.upgrade ≠ none) : w.grantPass = w := by
  rcases w.grantPass_cases with ⟨v, noUpgrade, pass⟩ | ⟨_, _, ended | same⟩
  · rw [pass, (passWaiters_stopped _ v).2] at left
    exact absurd noUpgrade left
  · exact absurd ended left
  · exact same

theorem AtEntry.grantPass_stopped (noUpgrade : w.entry.upgrade = none) : w.grantPass.StoppedIn w.entry.waiters := by
  rw [AtEntry.grantPass, noUpgrade]
  exact (passWaiters_stopped _ w).1

/-! ## One item of the pass -/

theorem AtEntry.grantWaiter_queue (w : AtEntry) (x : Waiter) (ys : List Waiter) :
    (w.queue ys).grantWaiter x = (w.grantWaiter x).queue ys := by
  simp only [AtEntry.grantWaiter, AtEntry.grantHold]
  rw [show (w.queue ys).entry.freeSlot? = w.entry.freeSlot? from rfl]
  cases w.entry.freeSlot? <;> rfl

/-- The pass is given its list, and does not read the one in the entry. -/
theorem passWaiters_queue (xs ys : List Waiter) : ∀ w : AtEntry, passWaiters xs (w.queue ys) = passWaiters xs w := by
  induction xs with
  | nil => exact fun w => rfl
  | cons x rest ih =>
    intro w
    by_cases fit : w.state.fit x.client
    · by_cases grantable : w.entry.headGrantable x.mode = true
      · by_cases room : w.state.holdRoom x.client
        · rw [passWaiters_grant fit grantable room, passWaiters_grant (w := w.queue ys) fit grantable room,
            AtEntry.grantWaiter_queue, ih]
        · rw [passWaiters_overQuota fit grantable room, passWaiters_overQuota (w := w.queue ys) fit grantable room]
          exact ih (w.onState (fun s => s.endWaiter x .quotaHolds))
      · have stop : ∀ v : AtEntry, v.state = w.state → v.entry.headGrantable x.mode = w.entry.headGrantable x.mode →
            passWaiters (x :: rest) v = v.queue (x :: rest) := fun v state entry => passWaiters_stop fun y hy => by
          obtain rfl : x = y := Option.some.inj hy
          rw [state, entry]
          exact ⟨fit, grantable⟩
        rw [stop w rfl rfl, stop (w.queue ys) rfl rfl]
        rfl
    · rw [passWaiters_unfit fit, passWaiters_unfit (w := w.queue ys) fit]
      exact ih (w.onState (fun s => s.endWaiter x (.cancelled .isolation)))

/-- Once the item at the head is done with, the pass goes on as a pass over the rest. -/
theorem AtEntry.grantPass_queue (noUpgrade : w.entry.upgrade = none) :
    (w.queue rest).grantPass = passWaiters rest w := by
  rw [AtEntry.grantPass, show (w.queue rest).entry.upgrade = none from noUpgrade]
  exact passWaiters_queue rest rest w

theorem AtEntry.grantPass_unfitUpgrade {u : PendingUpgrade} (hu : w.entry.upgrade = some u) (unfit : ¬ w.state.fit u.client) :
    w.grantPass = (w.endUpgrade u (.cancelled .isolation)).grantPass := by
  rw [AtEntry.grantPass, hu]
  dsimp only
  rw [if_pos (State.unfit_of_not_fit unfit)]
  rfl

section
variable (noUpgrade : w.entry.upgrade = none) (hw : w.entry.waiters = x :: rest)
include noUpgrade hw

theorem AtEntry.grantPass_unfitHead (unfit : ¬ w.state.fit x.client) :
    w.grantPass = ((w.onState (fun s => s.endWaiter x (.cancelled .isolation))).queue rest).grantPass := by
  rw [AtEntry.grantPass, noUpgrade, hw, AtEntry.grantPass_queue (by exact noUpgrade)]
  exact passWaiters_unfit unfit

theorem AtEntry.grantPass_headOverQuota (fit : w.state.fit x.client) (grantable : w.entry.headGrantable x.mode = true)
    (full : ¬ w.state.holdRoom x.client) :
    w.grantPass = ((w.onState (fun s => s.endWaiter x .quotaHolds)).queue rest).grantPass := by
  rw [AtEntry.grantPass, noUpgrade, hw, AtEntry.grantPass_queue (by exact noUpgrade)]
  exact passWaiters_overQuota fit grantable full

theorem AtEntry.grantPass_headGranted (fit : w.state.fit x.client) (grantable : w.entry.headGrantable x.mode = true)
    (room : w.state.holdRoom x.client) : w.grantPass = ((w.grantWaiter x).queue rest).grantPass := by
  rw [AtEntry.grantPass, noUpgrade, hw, AtEntry.grantPass_queue ((w.upgrade_grantWaiter x).trans noUpgrade)]
  exact passWaiters_grant fit grantable room

end

end

/-- A grant told into the last batch of watch events (R50, R90). -/
theorem State.grantedWaiter_told {s : State} {bs : List (List WatchEvent)} {b : List WatchEvent}
    (told : s.watchEvents = bs ++ [b]) (name : Name) (x : Waiter) : s.grantedWaiter name x =
      (s.grantTo name (BitVec.ofNat 64 s.nextToken) x).withBooks (s.nextToken + 1) (s.poolFree + 1)
        (bs ++ [b ++ [x.grantedEvent name (BitVec.ofNat 64 s.nextToken)]]) := by
  have books : s = s.withBooks s.nextToken s.poolFree (bs ++ [b]) := by
    rw [State.withBooks, ← told]
  rw [← State.grantedWaiter_withBooks, ← books]

end Sys2Proof.Machine

open Sys2Proof Sys2Proof.Machine in
/-- Settles O28: the pass over the list stops by induction on it, and each item is one step of that recursion. -/
theorem grantPassStopsAtABlockedHead : Obligations.GrantPassStopsAtABlockedHead := by
  intro w v grantable ended
  have canGrant : ∀ x, grantable x → w.entry.headGrantable x.mode = true := fun x => (w.entry.headGrantable_iff x.mode).mpr
  refine ⟨w.grantPass_tail, AtEntry.grantPass_upgradeLeft, fun _ noUpgrade x head => ?_, fun u hu unfit => ?_,
    fun x rest noUpgrade hw unfit => ?_, fun x rest noUpgrade hw fit can full => ?_,
    fun x rest i bs b noUpgrade hw fit can room free told => ?_⟩
  · obtain ⟨fit, blocked⟩ := (AtEntry.grantPass_stopped noUpgrade).blocked x head
    rw [LockEntry.headGrantable_iff, not_or] at blocked
    exact ⟨fit, blocked⟩
  · refine (AtEntry.grantPass_unfitUpgrade hu unfit).trans ?_
    rw [AtEntry.endUpgrade_eq, PendingUpgrade.ending_of_ne (by decide)]
    rfl
  · refine (AtEntry.grantPass_unfitHead noUpgrade hw unfit).trans ?_
    simp only [State.endWaiter_eq, Waiter.ending_of_ne (status := .cancelled .isolation) (by decide)]
    rfl
  · refine (AtEntry.grantPass_headOverQuota noUpgrade hw fit (canGrant x can) full).trans ?_
    simp only [State.endWaiter_eq, Waiter.ending_of_ne (status := .quotaHolds) (by decide)]
    rfl
  · refine (AtEntry.grantPass_headGranted noUpgrade hw fit (canGrant x can) room).trans ?_
    rw [AtEntry.grantWaiter_eq free, State.grantedWaiter_told told]
    rfl
end

section
/-! PROOFS. A waiter or a pending upgrade that leaves by its own event, where the pass that follows lets nobody in (R54, R57, R73,
R141). -/

namespace Sys2Proof.Machine

/-! ## Finding the waiter of a client -/

section
variable {e : LockEntry} {x y : Waiter}

/-- On a lawful entry a client has one waiter (R43). -/
theorem LockEntry.Lawful.waiter_eq (lawful : e.Lawful) (hx : x ∈ e.waiters) (hy : y ∈ e.waiters) (same : x.client = y.client) :
    x = y := List.inj_on_of_nodup_map lawful.oneWait hx hy same

theorem LockEntry.Lawful.find_waiter (lawful : e.Lawful) (hx : x ∈ e.waiters) {p : Waiter → Bool} (hp : p x = true)
    (own : ∀ y, p y = true → y.client = x.client) : e.waiters.find? p = some x := by
  obtain ⟨y, hy⟩ := Option.isSome_iff_exists.mp (List.find?_isSome.mpr ⟨x, hx, hp⟩)
  have same := own y (List.find?_some hy)
  rw [hy, lawful.waiter_eq (List.mem_of_find?_eq_some hy) hx same]

theorem LockEntry.Lawful.waiterTagged_eq (lawful : e.Lawful) (hx : x ∈ e.waiters) : e.waiterTagged? x.client x.tag = some x :=
  lawful.find_waiter hx (by simp) fun y hy => by
    rw [Bool.and_eq_true, beq_iff_eq] at hy
    exact hy.1

theorem LockEntry.Lawful.waiterOf_eq (lawful : e.Lawful) (hx : x ∈ e.waiters) : e.waiterOf? x.client = some x :=
  lawful.find_waiter hx (by simp) fun y hy => beq_iff_eq.mp hy

theorem LockEntry.Lawful.headIs_iff (lawful : e.Lawful) (hx : x ∈ e.waiters) :
    e.headIs x.client = true ↔ e.waiters.head? = some x := by
  cases hw : e.waiters with
  | nil => simp [LockEntry.headIs, hw]
  | cons y ys =>
    have hy : y ∈ e.waiters := hw ▸ List.mem_cons_self
    rw [LockEntry.headIs, hw, List.head?_cons, Option.some.injEq, beq_iff_eq]
    exact ⟨fun same => lawful.waiter_eq hy hx same, congrArg Waiter.client⟩

/-- The entry without the waiter of a client (R43). -/
def LockEntry.unqueued (e : LockEntry) (c : ClientId) : LockEntry :=
  { e with waiters := e.waiters.filter (fun y => y.client != c) }

theorem eraseP_client_eq_filter {ws : List Waiter} (nodup : (ws.map (fun w => w.client)).Nodup) (c : ClientId) :
    ws.eraseP (fun w => w.client == c) = ws.filter (fun w => w.client != c) := by
  induction ws with
  | nil => rfl
  | cons y ys ih =>
    obtain ⟨fresh, nodup⟩ := List.nodup_cons.mp nodup
    by_cases hy : y.client = c
    · have others : ys.filter (fun w => w.client != c) = ys := List.filter_eq_self.mpr fun z hz => by
        rw [bne_iff_ne, ← hy]
        exact fun same => fresh (List.mem_map.mpr ⟨z, hz, same⟩)
      rw [List.eraseP_cons_of_pos (by simpa using hy), List.filter_cons_of_neg (by simpa using hy), others]
    · rw [List.eraseP_cons_of_neg (by simpa using hy), List.filter_cons_of_pos (by simpa using hy), ih nodup]

theorem LockEntry.Lawful.dropWaiter_eq (lawful : e.Lawful) (c : ClientId) : e.dropWaiter c = e.unqueued c := by
  rw [LockEntry.dropWaiter, eraseP_client_eq_filter lawful.oneWait, LockEntry.unqueued]

end

/-! ## The event in which a wait ends -/

/-- The waiter `x` may leave the entry with nobody let in: it is not at the head, or it stands behind an EXCLUSIVE holder and every
other client that waits can take a grant (R47, R48, R54). -/
def State.leavesAlone (s : State) (e : LockEntry) (x : Waiter) : Prop :=
  e.waiters.head? ≠ some x ∨ (e.mode = .exclusive ∧ ∀ y ∈ e.waiters, y ≠ x → s.fit y.client)

theorem State.clients_endWaiter (s : State) (x : Waiter) (status : Status) : (s.endWaiter x status).clients = s.clients := by
  rw [State.endWaiter_eq]
  rfl

section
variable {s : State} {e : LockEntry} {x y : Waiter} {u : PendingUpgrade} {status : Status}

/-- Behind an EXCLUSIVE holder the pass finds no head that it may grant, and no pending upgrade. -/
theorem AtEntry.grantPass_unqueued (lawful : e.Lawful) (exclusive : e.mode = .exclusive)
    (others : ∀ y ∈ e.waiters, y ≠ x → s.fit y.client) :
    AtEntry.grantPass { entry := e.unqueued x.client, state := s } = { entry := e.unqueued x.client, state := s } := by
  have noUpgrade : e.upgrade = none := Option.eq_none_iff_forall_ne_some.mpr fun u hu =>
    absurd (exclusive.symm.trans (lawful.upgrade u hu).1) (by decide)
  refine AtEntry.grantPass_headBlocked (w := { entry := e.unqueued x.client, state := s }) noUpgrade fun z hz => ⟨?_, ?_⟩
  · obtain ⟨mem, apart⟩ := List.mem_filter.mp (List.mem_of_mem_head? hz)
    refine others z mem fun same => ?_
    rw [same, bne_self_eq_false] at apart
    cases apart
  · exact LockEntry.headGrantable_setMode (e := e.unqueued x.client) (Nat.one_le_iff_ne_zero.mp lawful.held) (.inl exclusive)

/-- The waiter `x` leaves with nobody let in; `y` is its record, with the count that its answer gives. -/
theorem AtEntry.endWaiterThere_alone (lawful : e.Lawful) (hx : x ∈ e.waiters) (same : y.client = x.client)
    (alone : s.leavesAlone e x) : AtEntry.endWaiterThere { entry := e, state := s } y status =
      (s.endWaiter y status).storeEntry (e.unqueued x.client) := by
  have close := AtEntry.close_held (w := { entry := e.unqueued x.client, state := s.endWaiter y status })
    (Nat.one_le_iff_ne_zero.mp lawful.held)
  rw [AtEntry.endWaiterThere]
  dsimp only
  rw [same, lawful.dropWaiter_eq]
  split
  · rename_i head
    obtain ⟨exclusive, others⟩ := alone.resolve_left (not_not_intro ((lawful.headIs_iff hx).mp head))
    have fits : ∀ z ∈ e.waiters, z ≠ x → (s.endWaiter y status).fit z.client := fun z hz apart =>
      (others z hz apart).of_clients (s.clients_endWaiter y status)
    rw [AtEntry.passAndClose, AtEntry.grantPass_unqueued lawful exclusive fits]
    exact close
  · exact close

theorem AtEntry.endUpgradeThere_stuck (lawful : e.Lawful) (stuck : s.stuckBehind e.waiters) :
    AtEntry.endUpgradeThere { entry := e, state := s } u status =
      (s.waitOver u.client (u.ending status)).storeEntry { e with upgrade := none } := by
  rw [AtEntry.endUpgradeThere, AtEntry.endUpgrade_eq]
  exact AtEntry.passAndClose_stuck
    (w := { entry := { e with upgrade := none }, state := s.waitOver u.client (u.ending status) })
    (Nat.one_le_iff_ne_zero.mp lawful.held) (stuck.client rfl) rfl

end

/-! ## What such an event leaves -/

section
variable (b : State) (d : LockEntry) (status : Status)

theorem State.closeBatch_endWaiter (x : Waiter) : ((b.openBatch.endWaiter x status).storeEntry d).closeBatch =
    { b.waitOver x.client (x.ending status) with table := putEntry d b.table, poolFree := b.poolFree + 1 } := by
  rw [State.endWaiter_eq]
  exact closeBatch_openBatch
    { b.waitOver x.client (x.ending status) with table := putEntry d b.table, poolFree := b.poolFree + 1 }

theorem State.closeBatch_waitOver (c : ClientId) (a : Response) : ((b.openBatch.waitOver c a).storeEntry d).closeBatch =
    { b.waitOver c a with table := putEntry d b.table } :=
  closeBatch_openBatch { b.waitOver c a with table := putEntry d b.table }

end

/-- The state after the wait of the waiter `x` has ended in an event that began in `b` and let nobody in. -/
def State.waiterGone (b : State) (e : LockEntry) (x : Waiter) (a : Response) : State :=
  { b.waitOver x.client a with table := putEntry (e.unqueued x.client) b.table, poolFree := b.poolFree + 1 }

@[inherit_doc State.waiterGone]
def State.upgradeGone (b : State) (e : LockEntry) (u : PendingUpgrade) (a : Response) : State :=
  { b.waitOver u.client a with table := putEntry { e with upgrade := none } b.table }

section
variable {b s : State} {e : LockEntry} {x y : Waiter} {u v : PendingUpgrade} {status : Status} {a : Response}
  {k : State → Option State}

theorem closeBatch_endWaiterThere (lawful : e.Lawful) (hx : x ∈ e.waiters) (same : y.client = x.client)
    (alone : b.leavesAlone e x) (answer : y.ending status = a) :
    (AtEntry.endWaiterThere { entry := e, state := b.openBatch } y status).closeBatch = b.waiterGone e x a := by
  rw [AtEntry.endWaiterThere_alone (s := b.openBatch) lawful hx same alone, State.closeBatch_endWaiter, answer, same,
    State.waiterGone]

theorem closeBatch_endUpgradeThere (lawful : e.Lawful) (stuck : b.stuckBehind e.waiters) (same : v.client = u.client)
    (answer : v.ending status = a) :
    (AtEntry.endUpgradeThere { entry := e, state := b.openBatch } v status).closeBatch = b.upgradeGone e u a := by
  rw [AtEntry.endUpgradeThere_stuck (s := b.openBatch) lawful (stuck.client rfl), State.closeBatch_waitOver, answer, same,
    State.upgradeGone]

/-- An event of the Lease Clock or of a teardown in which a waiter leaves. -/
theorem takeLockEvent_endWaiter (running : s.engine = .running) (tokens : s.nextToken ≤ 2 ^ 64) (lawful : e.Lawful)
    (hx : x ∈ e.waiters) (same : y.client = x.client) (alone : s.leavesAlone e x) (answer : y.ending status = a)
    (taken : k s.quiet.openBatch = some (AtEntry.endWaiterThere { entry := e, state := s.quiet.openBatch } y status)) :
    takeLockEvent s k = .next (s.quiet.waiterGone e x a) := by
  have gone := closeBatch_endWaiterThere (b := s.quiet) lawful hx same alone answer
  rw [← gone]
  refine takeLockEvent_running s _ k running taken ?_
  rw [← State.nextToken_closeBatch, gone]
  exact tokens

/-- An event of the Lease Clock or of a teardown in which a pending upgrade ends. -/
theorem takeLockEvent_endUpgrade (running : s.engine = .running) (tokens : s.nextToken ≤ 2 ^ 64) (lawful : e.Lawful)
    (stuck : s.stuckBehind e.waiters) (same : v.client = u.client) (answer : v.ending status = a)
    (taken : k s.quiet.openBatch = some (AtEntry.endUpgradeThere { entry := e, state := s.quiet.openBatch } v status)) :
    takeLockEvent s k = .next (s.quiet.upgradeGone e u a) := by
  have gone := closeBatch_endUpgradeThere (b := s.quiet) lawful stuck same answer
  rw [← gone]
  refine takeLockEvent_running s _ k running taken ?_
  rw [← State.nextToken_closeBatch, gone]
  exact tokens

end

end Sys2Proof.Machine
end

section
/-! PROOFS. Waits that expire, and waits that a teardown removes (R57, R73, R141). -/

namespace Sys2Proof.Machine

section
variable {s : State} {c : ClientId} {e : LockEntry} {x : Waiter} {u : PendingUpgrade} {status : Status} {a : Response}

theorem waitExpiryAt_eq (he : s.entry? e.name = some e) (lawful : e.Lawful) (hx : x ∈ e.waiters) (raised : x.expiryRaised = true)
    (ending : s.endingFor x.client .timeout = status) : waitExpiryAt e.name x.client x.tag s =
      some (AtEntry.endWaiterThere { entry := e, state := s } x.completeWait status) := by
  rw [waitExpiryAt, he]
  dsimp only
  rw [lawful.waiterTagged_eq hx, Option.filter_some, if_pos raised, ending]

theorem upgradeWaitExpiryAt_eq (he : s.entry? e.name = some e) (hu : e.upgrade = some u) (raised : u.expiryRaised = true)
    (ending : s.endingFor u.client .timeout = status) : upgradeWaitExpiryAt e.name u.tag s =
      some (AtEntry.endUpgradeThere { entry := e, state := s } u.completeWait status) := by
  rw [upgradeWaitExpiryAt, he]
  dsimp only
  rw [hu, Option.filter_some, if_pos (by rw [raised, beq_self_eq_true]; rfl)]
  dsimp only
  rw [ending]

theorem State.endingFor_fit (fit : s.fit c) (status : Status) : s.endingFor c status = status :=
  if_neg (by rw [(s.unfit_iff c).mpr fit]; decide)

theorem State.endingFor_unfit (unfit : ¬ s.fit c) (status : Status) : s.endingFor c status = .cancelled .isolation :=
  if_pos (State.unfit_of_not_fit unfit)

theorem removeWaiterStep_eq (down : s.tearingDown x.client = true) (he : s.entry? e.name = some e) (lawful : e.Lawful)
    (hx : x ∈ e.waiters) : removeWaiterStep x.client e.name s =
      some (AtEntry.endWaiterThere { entry := e, state := s } x (.cancelled .isolation)) := by
  rw [removeWaiterStep, if_pos down, he]
  dsimp only
  rw [lawful.waiterOf_eq hx]

theorem removeUpgradeStep_eq (down : s.tearingDown u.client = true) (he : s.entry? e.name = some e) (hu : e.upgrade = some u) :
    removeUpgradeStep u.client e.name s =
      some (AtEntry.endUpgradeThere { entry := e, state := s } u (.cancelled .isolation)) := by
  rw [removeUpgradeStep, if_pos down, he]
  dsimp only
  rw [hu, Option.filter_some, if_pos (beq_self_eq_true u.client)]

end

end Sys2Proof.Machine

open Sys2Proof Sys2Proof.Machine in
/-- Settles O30: the expired wait leaves with the ending that its client's fitness gives, and the pass lets nobody in. -/
theorem expiredWaitsAnswerTimeout : Obligations.ExpiredWaitsAnswerTimeout := by
  constructor
  · intro s name c e x running tokens he lawful hx hc raised alone waited answer
    obtain rfl : e.name = name := State.name_of_lookup he
    subst hc
    have answers : ∀ status a, s.endingFor x.client .timeout = status → x.completeWait.ending status = a → answer a :=
      fun status a ending gives => ⟨_, takeLockEvent_endWaiter (y := x.completeWait) running tokens lawful hx rfl alone gives
        (waitExpiryAt_eq (s := s.quiet.openBatch) he lawful hx raised ending), rfl, State.differsAt_storeEntry rfl rfl⟩
    exact ⟨fun fit => answers _ _ (State.endingFor_fit fit _) rfl, fun unfit => answers _ _ (State.endingFor_unfit unfit _) rfl⟩
  · intro s name e u running tokens he lawful hu raised stuck waited answer
    obtain rfl : e.name = name := State.name_of_lookup he
    have answers : ∀ status a, s.endingFor u.client .timeout = status → u.completeWait.ending status = a → answer a :=
      fun status a ending gives => ⟨_, takeLockEvent_endUpgrade (u := u) (v := u.completeWait) running tokens lawful stuck rfl gives
        (upgradeWaitExpiryAt_eq (s := s.quiet.openBatch) he hu raised ending), rfl, State.differsAt_storeEntry rfl rfl⟩
    exact ⟨fun fit => answers _ _ (State.endingFor_fit fit _) rfl, fun unfit => answers _ _ (State.endingFor_unfit unfit _) rfl⟩

open Sys2Proof Sys2Proof.Machine in
/-- Settles O53: the wait leaves CANCELLED/ISOLATION, and the pass lets nobody in. -/
theorem teardownRemovesTheWaits : Obligations.TeardownRemovesTheWaits := by
  intro s c name e running tokens teardown idle he lawful
  obtain rfl : e.name = name := State.name_of_lookup he
  have down : s.quiet.openBatch.tearingDown c = true := State.tearingDown_true teardown idle
  refine ⟨fun x hx hc alone => ?_, fun u hu hc stuck => ?_⟩
  · subst hc
    exact ⟨_, takeLockEvent_endWaiter running tokens lawful hx rfl alone (x.ending_of_ne (by decide))
      (removeWaiterStep_eq (s := s.quiet.openBatch) down he lawful hx), rfl, State.differsAt_storeEntry rfl rfl⟩
  · subst hc
    exact ⟨_, takeLockEvent_endUpgrade running tokens lawful stuck rfl (u.ending_of_ne (by decide))
      (removeUpgradeStep_eq (s := s.quiet.openBatch) down he hu), rfl, State.differsAt_storeEntry rfl rfl⟩
end

section
/-! PROOFS. CANCEL: which wait it finds, and what its event leaves (R53, R54). -/

namespace Sys2Proof.Machine

/-! ## The earliest of the targets -/

theorem earliest_none {gs : List CancelTarget} (h : earliest gs = none) : gs = [] := by
  cases gs with
  | nil => rfl
  | cons g gs =>
    rw [earliest] at h
    split at h
    · split at h <;> cases h
    · cases h

theorem earliest_least (gs : List CancelTarget) : ∀ g, earliest gs = some g → g ∈ gs ∧ ∀ k ∈ gs, g.order ≤ k.order := by
  induction gs with
  | nil => exact fun g h => nomatch h
  | cons x xs ih =>
    intro g h
    rw [earliest] at h
    split at h
    · rename_i y hy
      obtain ⟨mem, least⟩ := ih y hy
      split at h
      · rename_i less
        obtain rfl : y = g := Option.some.inj h
        exact ⟨List.mem_cons_of_mem x mem, List.forall_mem_cons.mpr ⟨BitVec.le_of_lt less, least⟩⟩
      · rename_i notLess
        obtain rfl : x = g := Option.some.inj h
        have first : x.order ≤ y.order := BitVec.not_lt.mp notLess
        exact ⟨List.mem_cons_self,
          List.forall_mem_cons.mpr ⟨BitVec.le_refl _, fun k hk => BitVec.le_trans first (least k hk)⟩⟩
    · rename_i none
      obtain rfl : x = g := Option.some.inj h
      rw [earliest_none none]
      exact ⟨List.mem_cons_self, List.forall_mem_cons.mpr ⟨BitVec.le_refl _, fun k hk => nomatch hk⟩⟩

/-- The one target whose order is least is found. -/
theorem earliest_eq {gs : List CancelTarget} {g : CancelTarget} (mem : g ∈ gs) (least : ∀ k ∈ gs, g.order ≤ k.order)
    (only : ∀ k ∈ gs, k.order = g.order → k = g) : earliest gs = some g := by
  cases found : earliest gs with
  | none =>
    rw [earliest_none found] at mem
    cases mem
  | some k =>
    obtain ⟨hk, below⟩ := earliest_least gs k found
    rw [only k hk (BitVec.le_antisymm (below g mem) (least k hk))]

/-! ## The waits that a CANCEL matches -/

/-- The waiter `x` on the entry `e` as a CANCEL finds it (R53). -/
def LockEntry.waiterTarget (e : LockEntry) (x : Waiter) : CancelTarget := { name := e.name, order := x.order, isUpgrade := false }

@[inherit_doc LockEntry.waiterTarget] def LockEntry.upgradeTarget (e : LockEntry) (u : PendingUpgrade) : CancelTarget :=
  { name := e.name, order := u.order, isUpgrade := true }

section
variable {e : LockEntry} {q : ClientId} {tag : Tag}

theorem LockEntry.upgradeTagged_eq_some {u : PendingUpgrade} :
    e.upgradeTagged? q tag = some u ↔ e.upgrade = some u ∧ u.client = q ∧ u.tag = tag := by
  rw [LockEntry.upgradeTagged?, Option.filter_eq_some_iff, Bool.and_eq_true, beq_iff_eq, beq_iff_eq]

theorem LockEntry.Lawful.waiterTagged_eq_some (lawful : e.Lawful) {x : Waiter} :
    e.waiterTagged? q tag = some x ↔ x ∈ e.waiters ∧ x.client = q ∧ x.tag = tag := by
  constructor
  · intro h
    have own := List.find?_some h
    rw [Bool.and_eq_true, beq_iff_eq, beq_iff_eq] at own
    exact ⟨List.mem_of_find?_eq_some h, own⟩
  · rintro ⟨mem, rfl, rfl⟩
    exact lawful.waiterTagged_eq mem

theorem LockEntry.Lawful.mem_cancelTargets (lawful : e.Lawful) (g : CancelTarget) : g ∈ e.cancelTargets q tag ↔
    (∃ x ∈ e.waiters, x.client = q ∧ x.tag = tag ∧ g = e.waiterTarget x) ∨
      (∃ u, e.upgrade = some u ∧ u.client = q ∧ u.tag = tag ∧ g = e.upgradeTarget u) := by
  rw [LockEntry.cancelTargets, List.mem_append, Option.mem_toList, Option.mem_toList,
    Option.map_eq_some_iff, Option.map_eq_some_iff]
  simp only [lawful.waiterTagged_eq_some, LockEntry.upgradeTagged_eq_some, LockEntry.waiterTarget, LockEntry.upgradeTarget,
    eq_comm (a := g), and_assoc]

end

/-- No wait of the client with this tag was taken before this order (R53). -/
def State.noneEarlier (s : State) (q : ClientId) (tag : Tag) (order : BitVec 64) : Prop :=
  (∀ e ∈ s.table, ∀ y ∈ e.waiters, y.client = q → y.tag = tag → order ≤ y.order) ∧
  (∀ e ∈ s.table, ∀ v, e.upgrade = some v → v.client = q → v.tag = tag → order ≤ v.order)

/-- At most one wait of the client was taken with this order (R53). -/
def State.oneTaken (s : State) (q : ClientId) (order : BitVec 64) : Prop :=
  ∀ e ∈ s.table, ∀ d ∈ s.table, (∀ x ∈ e.waiters, ∀ y ∈ d.waiters, x.client = q → y.client = q →
      x.order = order → y.order = order → x = y ∧ e = d) ∧
    (∀ x ∈ e.waiters, ∀ v, d.upgrade = some v → x.client = q → v.client = q → ¬ (x.order = order ∧ v.order = order)) ∧
    (∀ u v, e.upgrade = some u → d.upgrade = some v → u.client = q → v.client = q → u.order = order →
      v.order = order → e = d)

section
variable {s : State} {q : ClientId} {tag : Tag} {e : LockEntry} {x : Waiter} {u : PendingUpgrade}

theorem TableLaw.mem_targets (law : TableLaw s) (g : CancelTarget) : g ∈ s.table.flatMap (fun e => e.cancelTargets q tag) ↔
    ∃ e ∈ s.table, (∃ x ∈ e.waiters, x.client = q ∧ x.tag = tag ∧ g = e.waiterTarget x) ∨
      (∃ u, e.upgrade = some u ∧ u.client = q ∧ u.tag = tag ∧ g = e.upgradeTarget u) := by
  rw [List.mem_flatMap]
  exact exists_congr fun e => and_congr_right fun he => (law.entries e he).mem_cancelTargets g

theorem TableLaw.target_order (law : TableLaw s) {order : BitVec 64} (least : s.noneEarlier q tag order) :
    ∀ g ∈ s.table.flatMap (fun e => e.cancelTargets q tag), order ≤ g.order := by
  intro g hg
  obtain ⟨waiters, upgrades⟩ := least
  rcases (law.mem_targets g).mp hg with ⟨d, hd, ⟨y, hy, client, same, rfl⟩ | ⟨v, hv, client, same, rfl⟩⟩
  · exact waiters d hd y hy client same
  · exact upgrades d hd v hv client same

theorem State.cancelTarget_waiter (law : TableLaw s) (he : e ∈ s.table) (hx : x ∈ e.waiters) (hc : x.client = q)
    (ht : x.tag = tag) (least : s.noneEarlier q tag x.order) (one : s.oneTaken q x.order) :
    s.cancelTarget q tag = some (e.waiterTarget x) := by
  refine earliest_eq ((law.mem_targets _).mpr ⟨e, he, .inl ⟨x, hx, hc, ht, rfl⟩⟩) (law.target_order least) fun g hg same => ?_
  rcases (law.mem_targets g).mp hg with ⟨d, hd, ⟨y, hy, client, _, rfl⟩ | ⟨v, hv, client, _, rfl⟩⟩
  · obtain ⟨rfl, rfl⟩ := (one e he d hd).1 x hx y hy hc client rfl same
    rfl
  · exact absurd ⟨rfl, same⟩ ((one e he d hd).2.1 x hx v hv hc client)

theorem State.cancelTarget_upgrade (law : TableLaw s) (he : e ∈ s.table) (hu : e.upgrade = some u) (hc : u.client = q)
    (ht : u.tag = tag) (least : s.noneEarlier q tag u.order) (one : s.oneTaken q u.order) :
    s.cancelTarget q tag = some (e.upgradeTarget u) := by
  refine earliest_eq ((law.mem_targets _).mpr ⟨e, he, .inr ⟨u, hu, hc, ht, rfl⟩⟩) (law.target_order least) fun g hg same => ?_
  rcases (law.mem_targets g).mp hg with ⟨d, hd, ⟨y, hy, client, _, rfl⟩ | ⟨v, hv, client, _, rfl⟩⟩
  · exact absurd ⟨same, rfl⟩ ((one d hd e he).2.1 y hy u hu client hc)
  · obtain rfl := (one e he d hd).2.2 u v hu hv hc client rfl same
    obtain rfl : u = v := Option.some.inj (hu.symm.trans hv)
    rfl

theorem State.cancelTarget_none (law : TableLaw s) (waiters : ∀ e ∈ s.table, ∀ y ∈ e.waiters, y.client = q → y.tag ≠ tag)
    (upgrades : ∀ e ∈ s.table, ∀ v, e.upgrade = some v → v.client = q → v.tag ≠ tag) : s.cancelTarget q tag = none := by
  have empty : s.table.flatMap (fun e => e.cancelTargets q tag) = [] := List.eq_nil_iff_forall_not_mem.mpr fun g hg => by
    rcases (law.mem_targets g).mp hg with ⟨d, hd, ⟨y, hy, client, same, _⟩ | ⟨v, hv, client, same, _⟩⟩
    · exact waiters d hd y hy client same
    · exact upgrades d hd v hv client same
  rw [State.cancelTarget, empty, earliest]

/-- An entry of the table is found by its name, which no other entry has (R1). -/
theorem TableLaw.lookup_of_mem (law : TableLaw s) (he : e ∈ s.table) : s.entry? e.name = some e := by
  cases found : s.entry? e.name with
  | none => simpa using List.find?_eq_none.mp found e he
  | some d =>
    have same : d.name = e.name := State.name_of_lookup found
    rcases List.mem_cons.mp ((law.perm found).mem_iff.mp he) with rfl | other
    · rfl
    · exact absurd same.symm (State.name_ne_of_mem_others other)

end

/-! ## The event of a CANCEL -/

section
variable {s t : State} {q : ClientId} {r : Record} {e : LockEntry} {x : Waiter} {u : PendingUpgrade}

theorem State.cancelAt_waiter (he : s.entry? e.name = some e) (lawful : e.Lawful) (hx : x ∈ e.waiters) :
    s.cancelAt x.client x.tag (e.waiterTarget x) =
      AtEntry.endWaiterThere { entry := e, state := s } x (.cancelled .byRequest) := by
  rw [State.cancelAt, show s.entry? (e.waiterTarget x).name = some e from he]
  dsimp only
  rw [if_neg (show ¬ (e.waiterTarget x).isUpgrade = true from Bool.false_ne_true), lawful.waiterTagged_eq hx]

theorem State.cancelAt_upgrade (he : s.entry? e.name = some e) (hu : e.upgrade = some u) :
    s.cancelAt u.client u.tag (e.upgradeTarget u) =
      AtEntry.endUpgradeThere { entry := e, state := s } u (.cancelled .byRequest) := by
  rw [State.cancelAt, show s.entry? (e.upgradeTarget u).name = some e from he]
  dsimp only
  rw [if_pos (show (e.upgradeTarget u).isUpgrade = true from rfl), LockEntry.upgradeTagged_eq_some.mpr ⟨hu, rfl, rfl⟩]

theorem exec_cancel (ready : Ready s q .cancel r)
    (taken : cancelTaken (s.takenAs q r) (Decode.field r 8 4) (s.recordTaken q).openBatch = t) (tokens : t.nextToken ≤ 2 ^ 64) :
    exec (.cancel q) s = .next t.closeBatch :=
  takeLockEvent_record Decode.targetTag noNames noAdjust cancelTaken (Decode.field r 8 4) ready rfl
    (by simp [Decode.Opcode.isCommand]) (by simp [State.windowAdmits, noNames]) t
    ((congrArg (cancelTaken _ · _) (ite_self _)).trans taken) tokens

theorem exec_cancel_notFound (ready : Ready s q .cancel r) (none : s.cancelTarget q (Decode.field r 8 4) = none) :
    exec (.cancel q) s = .next (s.replied q r .notFound .empty) := by
  have taken : cancelTaken (s.takenAs q r) (Decode.field r 8 4) (s.recordTaken q).openBatch =
      (s.recordTaken q).openBatch.alsoReplied s q r .notFound .empty := by
    rw [cancelTaken, show (s.recordTaken q).openBatch.cancelTarget (s.takenAs q r).client (Decode.field r 8 4) = .none from none]
    exact State.answer_eq _ _ _ _ _
  rw [exec_cancel ready taken ready.tokens, State.alsoReplied_quietly]

/-- The found wait ends, and then the CANCEL is answered (R54). -/
theorem exec_cancel_found (ready : Ready s q .cancel r) {g : CancelTarget}
    (found : s.cancelTarget q (Decode.field r 8 4) = some g)
    (ended : ((s.recordTaken q).openBatch.cancelAt q (Decode.field r 8 4) g).closeBatch = t)
    (same : t.nextToken = s.nextToken) : exec (.cancel q) s = .next (t.alsoReplied s q r .ok .empty) := by
  subst ended
  have taken : cancelTaken (s.takenAs q r) (Decode.field r 8 4) (s.recordTaken q).openBatch =
      ((s.recordTaken q).openBatch.cancelAt q (Decode.field r 8 4) g).alsoReplied s q r .ok .empty := by
    rw [cancelTaken, show (s.recordTaken q).openBatch.cancelTarget (s.takenAs q r).client (Decode.field r 8 4) = some g from found]
    exact State.answer_eq _ _ _ _ _
  exact (exec_cancel ready taken (same.trans_le ready.tokens)).trans rfl

end

end Sys2Proof.Machine

open Sys2Proof Sys2Proof.Machine in
/-- Settles O29: the target is the one wait of least order, it leaves with nobody let in, and the OK is answered after it. -/
theorem cancelEndsTheEarliestWait : Obligations.CancelEndsTheEarliestWait := by
  intro q s r ready law target earliest alone
  refine ⟨fun ⟨waiters, upgrades⟩ => exec_cancel_notFound ready (State.cancelTarget_none law waiters upgrades),
    fun e he x hx hc ht least one stays => ?_, fun e he u hu hc ht least one stuck => ?_⟩
  · have found := State.cancelTarget_waiter law he hx hc ht least one
    have ended := closeBatch_endWaiterThere (b := s.recordTaken q) (law.entries e he) hx rfl
      (stays.imp_right (And.imp_right fun fits y hy _ => fits y hy)) (x.ending_of_ne (status := .cancelled .byRequest) (by decide))
    rw [← State.cancelAt_waiter (s := (s.recordTaken q).openBatch) (law.lookup_of_mem he) (law.entries e he) hx, hc, ht] at ended
    have run := exec_cancel_found ready found ended rfl
    rw [State.waiterGone, State.waitOver, hc] at run
    exact ⟨_, run, rfl, State.differsAt_storeEntry rfl rfl⟩
  · have found := State.cancelTarget_upgrade law he hu hc ht least one
    have ended := closeBatch_endUpgradeThere (b := s.recordTaken q) (u := u) (law.entries e he) stuck rfl
      (u.ending_of_ne (status := .cancelled .byRequest) (by decide))
    rw [← State.cancelAt_upgrade (s := (s.recordTaken q).openBatch) (law.lookup_of_mem he) hu, hc, ht] at ended
    have run := exec_cancel_found ready found ended rfl
    rw [State.upgradeGone, State.waitOver, hc] at run
    exact ⟨_, run, rfl, State.differsAt_storeEntry rfl rfl⟩
end

section
/-! PROOFS. A request whose hold is not found (R63, R65). -/

namespace Sys2Proof.Machine

/-! ## The fields of a record that names a hold -/

/-- The check of the bytes, as the decoder makes it (R122, R153). -/
theorem nameField_of_bytes {r : Record} (h : bytesOf r 8 4 ≠ 0) : Decode.nameField r 8 = some (Decode.field r 8 4) := by
  rw [bytesOf_eq_fieldNat] at h
  have nonzero : (Decode.field r 8 4 : Name) ≠ 0 := fun zero => h (congrArg BitVec.toNat zero)
  exact if_neg nonzero

/-- Each of the four requests that name a hold of their client has a lock name in range (R122, R153). -/
theorem bytes_of_inRange {r : Record} {op : Decode.Opcode}
    (kind : op = .release ∨ op = .renew ∨ op = .upgrade ∨ op = .downgrade) (range : inRange r op = true) :
    bytesOf r 8 4 ≠ 0 := by
  rcases kind with rfl | rfl | rfl | rfl <;> simpa [inRange] using range

theorem holdFields_of_bytes {r : Record} (h : bytesOf r 8 4 ≠ 0) :
    Decode.holdFields r = some { name := Decode.field r 8 4, token := Decode.field r 12 8 } := by
  rw [Decode.holdFields, nameField_of_bytes h]

theorem renewFields_of_bytes {r : Record} (h : bytesOf r 8 4 ≠ 0) :
    Decode.renewFields r =
      some { name := Decode.field r 8 4, token := Decode.field r 12 8, lease := Decode.fieldNat r 20 2 } := by
  rw [Decode.renewFields, nameField_of_bytes h]

theorem upgradeFields_of_bytes {r : Record} (h : bytesOf r 8 4 ≠ 0) :
    Decode.upgradeFields r =
      some { name := Decode.field r 8 4, token := Decode.field r 12 8, wait := Decode.fieldNat r 22 2 } := by
  rw [Decode.upgradeFields, nameField_of_bytes h]

/-- An UPGRADE as intake passes it (R105). -/
def State.upgradePassed (s : State) (q : ClientId) (r : Record) (f : Decode.UpgradeFields) : Decode.UpgradeFields :=
  if (s.takenAs q r).cap.isSome then adjustUpgrade s.limits f else f

theorem State.upgradePassed_fields (s : State) (q : ClientId) (r : Record) (f : Decode.UpgradeFields) :
    (s.upgradePassed q r f).name = f.name ∧ (s.upgradePassed q r f).token = f.token ∧
      ((s.upgradePassed q r f).wait = 0 ↔ s.waitFor q f.wait = some 0) ∧
      storedWait (s.upgradePassed q r f).wait = s.waitFor q f.wait := by
  have zero := wait_zero_iff s q r f.wait
  have wait := storedWait_eq s q r f.wait
  unfold State.upgradePassed
  cases h : (s.takenAs q r).cap.isSome <;> rw [h] at zero wait <;> exact ⟨rfl, rfl, zero, wait⟩

/-! ## The answer -/

section
variable {t s : State} {q : ClientId} {r : Record} {token : Token}

theorem State.answerLost_stale (known : token ∈ (t.account q).expired) :
    t.answerLost (s.takenAs q r) token = t.alsoReplied s q r .stale .empty :=
  (if_pos (List.contains_iff_mem.mpr known)).trans (State.answer_eq t s q r .stale)

theorem State.answerLost_unknown (unknown : token ∉ (t.account q).expired) :
    t.answerLost (s.takenAs q r) token = (t.charged q 4).alsoReplied s q r .unknownToken .empty :=
  (if_neg (mt List.contains_iff_mem.mp unknown)).trans (State.answer_eq (t.charged q 4) s q r .unknownToken)

/-- A ready record whose owner finds no hold in it: STALE or UNKNOWN_TOKEN, in the state `t` that the owner makes of the taken
record before it looks (R65). -/
theorem takeLockEvent_record_lost {α : Type} {op : Decode.Opcode} (read : Record → Option α) (names : α → List Name)
    (adjust : Limits → α → α) (owner : Taken → α → State → State) (f : α) (ready : Ready s q op r) (hf : read r = some f)
    (hp : op.isCommand = true → q = 0) (admits : s.windowAdmits q (names f)) (tokens : t.nextToken = s.nextToken)
    (expired : (t.account q).expired = (s.account q).expired)
    (taken : owner (s.takenAs q r) (if (s.takenAs q r).cap.isSome then adjust s.limits f else f) (s.recordTaken q).openBatch =
      t.openBatch.answerLost (s.takenAs q r) token) :
    let event := takeLockEvent s (fun s1 => s1.takeRecord q op read names adjust owner)
    (token ∈ (s.account q).expired → event = .next (t.alsoReplied s q r .stale .empty)) ∧
    (token ∉ (s.account q).expired → event = .next ((t.charged q 4).alsoReplied s q r .unknownToken .empty)) := by
  refine ⟨fun known => ?_, fun unknown => ?_⟩
  · refine takeLockEvent_record_answered read names adjust owner f ready hf hp admits tokens (taken.trans ?_)
    exact State.answerLost_stale (t := t.openBatch) (expired ▸ known)
  · refine takeLockEvent_record_answered (t := t.charged q 4) read names adjust owner f ready hf hp admits tokens (taken.trans ?_)
    exact State.answerLost_unknown (t := t.openBatch) (expired ▸ unknown)

end

/-! ## The four requests -/

section
variable {s : State} {k : Taken}

theorem releaseTaken_lost {f : Decode.HoldFields} (lost : s.holdsNot k.client f.name f.token) :
    releaseTaken k f s = s.answerLost k f.token := by
  rw [releaseTaken, State.findHold_lost lost]

theorem renewTaken_lost {f : Decode.RenewFields} (lost : s.holdsNot k.client f.name f.token) :
    renewTaken k f s = s.answerLost k f.token := by
  rw [renewTaken, State.findHold_lost lost]

theorem upgradeTaken_lost {f : Decode.UpgradeFields} (lost : s.holdsNot k.client f.name f.token) :
    upgradeTaken k f s = (s.countRequest k.client).answerLost k f.token := by
  have notFound : (s.countRequest k.client).findHold k.client f.name f.token = none := State.findHold_lost lost
  rw [upgradeTaken, notFound]

theorem downgradeTaken_lost {f : Decode.HoldFields} (lost : s.holdsNot k.client f.name f.token) :
    downgradeTaken k f s = s.answerLost k f.token := by
  rw [downgradeTaken, State.findHold_lost lost]

end

end Sys2Proof.Machine

open Sys2Proof Sys2Proof.Machine in
/-- Settles O23: the owner of each of the four requests answers a hold that it does not find in the same way, an UPGRADE after it
has counted the request. -/
theorem lostTokenIsStaleOrUnknown : Obligations.LostTokenIsStaleOrUnknown := by
  intro op q s r kind ready range admits name token counted lost
  have named := bytes_of_inRange kind range
  rcases kind with rfl | rfl | rfl | rfl
  case inl =>
    exact takeLockEvent_record_lost (t := s.recordTaken q) _ _ noAdjust releaseTaken _ ready (holdFields_of_bytes named)
      (by simp [Decode.Opcode.isCommand]) admits rfl rfl
      ((congrArg (releaseTaken _ · _) (ite_self _)).trans (releaseTaken_lost (s := (s.recordTaken q).openBatch) lost))
  case inr.inl =>
    obtain ⟨sameName, sameToken, _⟩ := s.renewPassed_fields q r ⟨name, token, Decode.fieldNat r 20 2⟩
    have notFound := renewTaken_lost (s := (s.recordTaken q).openBatch) (k := s.takenAs q r) (f := s.renewPassed q r _)
      (by rw [sameName, sameToken]; exact lost)
    exact takeLockEvent_record_lost (t := s.recordTaken q) _ _ adjustRenew renewTaken _ ready (renewFields_of_bytes named)
      (by simp [Decode.Opcode.isCommand]) admits rfl rfl (notFound.trans (by rw [sameToken]))
  case inr.inr.inl =>
    obtain ⟨sameName, sameToken, _⟩ := s.upgradePassed_fields q r ⟨name, token, Decode.fieldNat r 22 2⟩
    have notFound := upgradeTaken_lost (s := (s.recordTaken q).openBatch) (k := s.takenAs q r) (f := s.upgradePassed q r _)
      (by rw [sameName, sameToken]; exact lost)
    have expired : ((s.asked q).account q).expired = (s.account q).expired :=
      (congrArg Account.expired (s.account_asked q) :)
    exact takeLockEvent_record_lost (t := s.asked q) _ _ adjustUpgrade upgradeTaken _ ready (upgradeFields_of_bytes named)
      (by simp [Decode.Opcode.isCommand]) admits rfl expired (notFound.trans (by rw [sameToken]; rfl))
  case inr.inr.inr =>
    exact takeLockEvent_record_lost (t := s.recordTaken q) _ _ noAdjust downgradeTaken _ ready (holdFields_of_bytes named)
      (by simp [Decode.Opcode.isCommand]) admits rfl rfl
      ((congrArg (downgradeTaken _ · _) (ite_self _)).trans (downgradeTaken_lost (s := (s.recordTaken q).openBatch) lost))
end

section
/-! PROOFS. UPGRADE of a found hold, in the order of its checks (R69 to R71). -/

namespace Sys2Proof.Machine

/-! ## The checks, one by one -/

section
variable {k : Taken} {wait : Nat} {g : FoundHold} {s : State}

theorem upgradeFound_exclusive (exclusive : g.hold.mode = .exclusive) : upgradeFound k wait g s = s.answer k .wrongMode :=
  if_pos exclusive

variable (shared : g.hold.mode = .shared)
include shared

theorem upgradeFound_alone (alone : g.entry.holds = 1) :
    upgradeFound k wait g s =
      (s.storeEntry { g.entry.setSlot g.slot (some { g.hold with mode := .exclusive }) with mode := .exclusive }).answerWith k
        .granted (.granted g.hold.token g.hold.lease 0 none 1) := by
  rw [upgradeFound, if_neg (by rw [shared]; decide), if_pos (g.entry.holderCount_eq.trans alone)]

variable (others : g.entry.holds ≠ 1)
include others

theorem upgradeFound_conflict (pending : g.entry.upgrade ≠ none) :
    upgradeFound k wait g s = s.answer k .upgradeConflict := by
  rw [upgradeFound, if_neg (by rw [shared]; decide), if_neg (g.entry.holderCount_eq.trans_ne others),
    if_pos (Option.isSome_iff_ne_none.mpr pending)]

variable (noUpgrade : g.entry.upgrade = none)
include noUpgrade

theorem upgradeFound_busy (noWait : wait = 0) :
    upgradeFound k wait g s = (s.storeEntry g.entry.contend).answerWith k .busy (.busy (g.entry.report 0) 0) := by
  rw [upgradeFound, if_neg (by rw [shared]; decide), if_neg (g.entry.holderCount_eq.trans_ne others),
    if_neg (by rw [noUpgrade]; decide), if_pos noWait]

variable (waits : wait ≠ 0)
include waits

theorem upgradeFound_overQuota (noRoom : ¬ s.waitRoom k.client) :
    upgradeFound k wait g s = (s.storeEntry g.entry.contend).answer k .quotaWaits := by
  have quota : s.atWaitQuota k.client = true := (Bool.eq_false_or_eq_true _).resolve_right (mt (s.atWaitQuota_iff _).mp noRoom)
  rw [upgradeFound, if_neg (by rw [shared]; decide), if_neg (g.entry.holderCount_eq.trans_ne others),
    if_neg (by rw [noUpgrade]; decide), if_neg waits, if_pos quota]

theorem upgradeFound_waits (room : s.waitRoom k.client) :
    upgradeFound k wait g s = (s.storeEntry { g.entry.contend with
      upgrade := some (newUpgrade k wait (s.account k.client).requests g) }).addWait k.client := by
  rw [upgradeFound, if_neg (by rw [shared]; decide), if_neg (g.entry.holderCount_eq.trans_ne others),
    if_neg (by rw [noUpgrade]; decide), if_neg waits, if_neg (by rw [(s.atWaitQuota_iff _).mpr room]; decide)]

end

/-- A taken UPGRADE whose hold is found is checked after the request is counted (R53, R69). -/
theorem upgradeTaken_found {k : Taken} {f : Decode.UpgradeFields} {g : FoundHold} {s : State}
    (found : s.findHold k.client f.name f.token = some g) :
    upgradeTaken k f s = upgradeFound k f.wait g (s.countRequest k.client) := by
  have counted : (s.countRequest k.client).findHold k.client f.name f.token = some g := found
  rw [upgradeTaken, counted]

/-! ## The event of an UPGRADE of a found hold -/

/-- What the checks make of an UPGRADE of the hold `h` in slot `i`, the record taken and the request counted (R53, R69). -/
def State.upgradeChecked (s : State) (q : ClientId) (r : Record) (f : Decode.UpgradeFields) (e : LockEntry) (i : SlotId)
    (h : Holder) : State :=
  upgradeFound (s.takenAs q r) (s.upgradePassed q r f).wait { entry := e, slot := i, hold := h } (s.asked q).openBatch

section
variable {s : State} {q : ClientId} {r : Record} {f : Decode.UpgradeFields} {e d : LockEntry} {i k : SlotId} {h first : Holder}
  {status : Status} {body : Body}

theorem upgradeTaken_checked (held : s.holdsAt q f.name f.token e i h) :
    upgradeTaken (s.takenAs q r) (s.upgradePassed q r f) (s.recordTaken q).openBatch = s.upgradeChecked q r f e i h := by
  obtain ⟨name, token, _⟩ := s.upgradePassed_fields q r f
  have found := State.findHold_found (s := (s.recordTaken q).openBatch) (c := (s.takenAs q r).client) held
  exact upgradeTaken_found (by rw [name, token, found])

theorem newUpgrade_eq (at_k : e.firstHeld k first) :
    newUpgrade (s.takenAs q r) (s.upgradePassed q r f).wait ((s.asked q).openBatch.account q).requests
        { entry := e, slot := i, hold := h } =
      { slot := i, client := q, tag := Decode.tag r, order := (s.account q).requests + 1, wait := s.waitFor q f.wait, waited := 0,
        report := e.reportWith first 0, index := (s.ring q).sqConsumer, expiryRaised := false } := by
  obtain ⟨_, _, _, wait⟩ := s.upgradePassed_fields q r f
  rw [newUpgrade, wait, LockEntry.report_eq at_k, State.account_asked]
  rfl

/-- The rest of the block when the request is counted and its wait with it, and an entry stored. -/
theorem State.closeBatch_addWait_asked (s : State) (q : ClientId) (d : LockEntry) :
    (((s.asked q).openBatch.storeEntry d).addWait q).closeBatch =
      { (s.recordTaken q).mapAccount q (fun a => a.asked.waiting) with table := putEntry d s.table } := by
  simp only [State.asked, State.addWait, State.countRequest, State.storeEntry, State.openBatch, State.closeBatch, State.setAccount,
    State.mapAccount, State.withAccount, State.account, Vector.set_set, Fin.getElem_fin, Vector.getElem_set_self, closeLast_append,
    if_true]
  rfl

variable (ready : Ready s q .upgrade r) (hf : Decode.upgradeFields r = some f) (admits : s.windowAdmits q [f.name])
  (held : s.holdsAt q f.name f.token e i h)
include ready hf admits held

theorem exec_upgrade_answered {t : State} (same : t.nextToken = s.nextToken)
    (checked : s.upgradeChecked q r f e i h = t.openBatch.alsoReplied s q r status body) :
    exec (.upgrade q) s = .next (t.alsoReplied s q r status body) :=
  takeLockEvent_record_answered Decode.upgradeFields (fun f => [f.name]) adjustUpgrade upgradeTaken f ready hf
    (by simp [Decode.Opcode.isCommand]) admits same ((upgradeTaken_checked held).trans checked)

theorem exec_upgrade_refused
    (checked : s.upgradeChecked q r f e i h = (s.asked q).openBatch.answer (s.takenAs q r) status) :
    exec (.upgrade q) s = .next ((s.replied q r status .empty).mapAccount q Account.asked) :=
  exec_upgrade_answered (t := s.asked q) ready hf admits held rfl (checked.trans (State.answer_eq _ _ _ _ _))

/-- An UPGRADE that is answered at once and changes its entry. -/
theorem exec_upgrade_stored (same : d.name = e.name)
    (checked : s.upgradeChecked q r f e i h =
      ((s.asked q).openBatch.storeEntry d).answerWith (s.takenAs q r) status body) :
    ∃ t, exec (.upgrade q) s = .next t ∧
      t = { (s.replied q r status body).mapAccount q Account.asked with table := t.table } ∧ s.differsAt t f.name (some d) :=
  ⟨_, exec_upgrade_answered (t := (s.asked q).storeEntry d) ready hf admits held rfl
      (checked.trans (State.answerWith_eq _ _ _ _ _ _)),
    rfl, State.differsAt_storeEntry (same.trans (State.name_of_lookup held.1)) rfl⟩

/-- An UPGRADE that becomes the pending upgrade of its entry is not answered yet (R71). -/
theorem exec_upgrade_waits (same : d.name = e.name)
    (checked : s.upgradeChecked q r f e i h = ((s.asked q).openBatch.storeEntry d).addWait q) :
    ∃ t, exec (.upgrade q) s = .next t ∧
      t = { (s.recordTaken q).mapAccount q (fun a => a.asked.waiting) with table := t.table } ∧
      s.differsAt t f.name (some d) := by
  have run : exec (.upgrade q) s = .next (((s.asked q).openBatch.storeEntry d).addWait q).closeBatch :=
    takeLockEvent_record Decode.upgradeFields (fun f => [f.name]) adjustUpgrade upgradeTaken f ready hf
      (by simp [Decode.Opcode.isCommand]) admits _ ((upgradeTaken_checked held).trans checked) ready.tokens
  rw [State.closeBatch_addWait_asked] at run
  exact ⟨_, run, rfl, State.differsAt_storeEntry (same.trans (State.name_of_lookup held.1)) rfl⟩

end

end Sys2Proof.Machine

open Sys2Proof Sys2Proof.Machine in
/-- Settles O25: the first check of R69 that applies to the found hold decides what the event leaves. -/
theorem upgradeInTheOrderOfItsChecks : Obligations.UpgradeInTheOrderOfItsChecks := by
  intro q s r f e i k h first ready hf admits held at_k refused refusedHotter
  obtain ⟨_, _, zero, _⟩ := s.upgradePassed_fields q r f
  have waitRoom := s.waitRoom_asked q
  refine ⟨fun exclusive => ?_, fun shared alone => ?_, fun shared others pending => ?_, fun shared others noUpgrade =>
    ⟨fun noWait => ?_, fun waits noRoom => ?_, fun waits room => ?_⟩⟩
  · exact exec_upgrade_refused ready hf admits held (upgradeFound_exclusive exclusive)
  · exact exec_upgrade_stored ready hf admits held rfl (upgradeFound_alone shared alone)
  · exact exec_upgrade_refused ready hf admits held (upgradeFound_conflict shared others pending)
  · refine exec_upgrade_stored (d := e.contend) ready hf admits held rfl
      ((upgradeFound_busy shared others noUpgrade (zero.mpr noWait)).trans ?_)
    rw [LockEntry.report_eq at_k]
  · exact exec_upgrade_stored (d := e.contend) ready hf admits held rfl
      (upgradeFound_overQuota shared others noUpgrade (mt zero.mp waits) (mt waitRoom.mp noRoom))
  · refine exec_upgrade_waits ready hf admits held rfl
      ((upgradeFound_waits shared others noUpgrade (mt zero.mp waits) (waitRoom.mpr room)).trans ?_)
    rw [State.takenAs_client, newUpgrade_eq at_k]
    rfl
end

section
/-! PROOFS. Commands of the control queue: each is taken as its fields were read, judges its target, and answers on the control
ring, which no change at the target disturbs (R122, R130, R133). -/

namespace Sys2Proof.Machine

/-- Intake neither windows nor adjusts a command of the control queue (R105, R122). -/
theorem takeEvent_command {α : Type} {s : State} {op : Decode.Opcode} {r : Record} {f : α} (read : Record → Option α)
    (owner : Taken → α → State → State) (ready : Ready s 0 op r) (hf : read r = some f) :
    takeEvent s (fun s1 => s1.takeRecord 0 op read noNames noAdjust owner) =
      .next (owner (s.takenAs 0 r) f (s.recordTaken 0)) := by
  refine (takeEvent_record read noNames noAdjust owner f ready hf (fun _ => rfl) (by simp [State.windowAdmits, noNames])).trans ?_
  rw [show noAdjust s.limits f = f from rfl, ite_self]

namespace State

theorem onClient_of_open {s : State} {c : ClientId} (k : Taken) (body : State → State) (target : c ≠ 0)
    (noTeardown : (s.client c).teardown = none) : s.onClient k c body = body s := by
  simp [onClient, target, noTeardown]

/-- What changes at one client and what is answered to another keep apart. -/
theorem answeredTo_setClient (s : State) {c d : ClientId} (apart : d ≠ c) (v : ClientRecord) (a : Response) :
    (s.setClient c v).answeredTo d a = (s.answeredTo d a).setClient c v := by
  rw [answeredTo, client_setClient_of_ne _ _ _ _ apart]
  rfl

theorem withRing_setRing_of_ne (s : State) {c d : ClientId} (apart : d ≠ c) (v w : RingContext) :
    (s.setRing c v).withRing d w = (s.withRing d w).setRing c v := by
  have indices : c.val ≠ d.val := fun e => apart (Fin.ext e.symm)
  rw [withRing, ring_setRing_of_ne _ _ _ _ apart]
  simp only [withRing, setRing, Vector.set_comm _ _ indices]

theorem answeredTo_setRing (s : State) {c d : ClientId} (apart : d ≠ c) (v : RingContext) (a : Response) :
    (s.setRing c v).answeredTo d a = (s.answeredTo d a).setRing c v := by
  rw [answeredTo, ring_setRing_of_ne _ _ _ _ apart]
  exact withRing_setRing_of_ne s apart v _

theorem ring_recordTaken_of_ne (s : State) {q c : ClientId} (apart : c ≠ q) : (s.recordTaken q).ring c = s.ring c :=
  ring_setRing_of_ne s.quiet q c _ apart

end State

end Sys2Proof.Machine
end

section
/-! PROOFS. Ticks: the interval that a tick ends, and where its sweep goes (R78, R80, R81). -/

namespace Sys2Proof.Machine

/-- The state in which a tick has ended its interval, its sweep not yet placed (R78, R80). -/
def State.intervalEnded (s : State) : State := { s with clock := { s.clock with elapsed := 0, period := s.clock.nextPeriod } }

section
variable {s : State}

/-! ## Where the sweep of a tick goes -/

theorem State.tickArrives_free (free : s.sweeping = false) (noneOwed : s.clock.owed = []) :
    s.tickArrives = { s.intervalEnded with clock := { s.intervalEnded.clock with sweep := s.sweepNow } } := by
  rw [State.tickArrives, if_neg (by simp [free, noneOwed])]
  rfl

theorem State.tickArrives_owed (busy : s.sweeping = true ∨ s.clock.owed ≠ []) (room : s.clock.owed.length < 255) :
    s.tickArrives =
      { s.intervalEnded with clock := { s.intervalEnded.clock with owed := s.clock.owed ++ [s.sweepNow] } } := by
  rw [State.tickArrives, if_pos busy]
  exact if_pos room

theorem State.tickArrives_uncounted (full : 255 ≤ s.clock.owed.length) : s.tickArrives = s.intervalEnded := by
  have owed : s.clock.owed ≠ [] := fun e => by simp [e] at full
  rw [State.tickArrives, if_pos (.inr owed)]
  exact if_neg (Nat.not_lt.mpr full)

theorem State.startOwed_cons {first : Sweep} {rest : List Sweep} (owed : s.clock.owed = first :: rest)
    (free : s.sweeping = false) : s.startOwed = some { s with clock := { s.clock with sweep := first, owed := rest } } := by
  rw [State.startOwed, owed]
  simp [free]

/-! ## The events of the Lease Clock's timing -/

theorem exec_tick (running : s.engine = .running) : exec .tick s = .next s.quiet.tickArrives :=
  takeEvent_running s _ (fun u => some u.tickArrives) running rfl

theorem step_idle (idle : s.pending = []) : step s = .next s.unitPasses := by
  rw [step, idle]

theorem State.unitPasses_before_tick (running : s.engine = .running) (before : s.clock.elapsed + 1 < s.clock.period) :
    s.unitPasses = { s with clock := { s.clock with elapsed := s.clock.elapsed + 1 } } := by
  rw [State.unitPasses, if_pos running, if_pos before]

theorem State.unitPasses_at_tick (running : s.engine = .running) (due : s.clock.period ≤ s.clock.elapsed + 1) :
    s.unitPasses = s.quiet.tickArrives := by
  rw [State.unitPasses, if_pos running, if_neg (Nat.not_lt.mpr due)]

theorem State.unitPasses_not_running (stands : s.engine ≠ .running) : s.unitPasses = s := if_neg stands

theorem exec_setTimebase {r : Record} {p : Nat} (ready : Ready s 0 .setTimebase r) (hf : Decode.periodField r = some p) :
    exec (.setTimebase 0) s =
      .next { s.replied 0 r .ok .empty with clock := { s.clock with nextPeriod := p } } :=
  (takeEvent_command Decode.periodField timebaseTaken ready hf).trans (congrArg Host.Outcome.next (State.answer_eq _ _ _ _ _))

end

end Sys2Proof.Machine

open Sys2Proof Sys2Proof.Machine in
/-- Settles O31: an idle step at the period is a tick, and a tick's sweep starts, is owed, or with 255 owed is not counted. -/
theorem ticksSweepsAndPeriods : Obligations.TicksSweepsAndPeriods := by
  refine ⟨fun s idle => ⟨fun running before => ?_, fun running due => ?_, fun stands => ?_⟩, fun s running => ?_⟩
  · rw [step_idle idle, State.unitPasses_before_tick running before]
  · rw [step_idle idle, State.unitPasses_at_tick running due, exec_tick running]
  · rw [step_idle idle, State.unitPasses_not_running stands]
  · refine ⟨fun free noneOwed => ?_, fun busy room => ?_, fun full => ?_, fun first rest owed free => ?_, fun r p ready hf =>
      exec_setTimebase ready hf⟩
    · rw [exec_tick running, State.tickArrives_free (s := s.quiet) free noneOwed]
      rfl
    · rw [exec_tick running, State.tickArrives_owed (s := s.quiet) busy room]
      rfl
    · rw [exec_tick running, State.tickArrives_uncounted (s := s.quiet) full]
      rfl
    · exact takeEvent_running s _ _ running (State.startOwed_cons (s := s.quiet) owed free)
end

section
/-! PROOFS. Recoveries that count down and complete (R86, R110). -/

namespace Sys2Proof.Machine

theorem State.recoveryDue_iff (s : State) (c : ClientId) :
    s.recoveryDue c = true ↔ (s.client c).state = .recovering ∧ c ∈ s.clock.sweep.clients := by
  simp [State.recoveryDue]

theorem Sweep.dropClient_dropClient (w : Sweep) (c : ClientId) : (w.dropClient c).dropClient c = w.dropClient c := by
  simp [Sweep.dropClient]

/-- What a completing recovery leaves of the client before its notices (R110). -/
def State.recovered (s : State) (c : ClientId) : State :=
  (((s.setRecovery c 0).setStanding c { score := 0, grade := .good }).setClient c
    { s.client c with state := .active }).forgetClient c

theorem State.completeRecovery_eq (s : State) (c : ClientId) :
    s.completeRecovery c = ((s.recovered c).noticedTo c (.standing .restricted .good 0)).noticedTo 0
      (.clientStanding c .returnedToActive 0) := by
  simp only [State.completeRecovery, State.notify_eq]
  rfl

/-- A client that leaves RECOVERING leaves the running sweep, whether or not its visit was made (R81). -/
theorem State.recovered_visitedClient (s : State) (c : ClientId) : (s.visitedClient c).recovered c = s.recovered c := by
  simp only [State.recovered, State.visitedClient, State.setRecovery, State.setStanding, State.setClient, State.forgetClient,
    State.client, Sweep.dropClient_dropClient]

section
variable {s : State} {c : ClientId}

theorem visitRecovering_counting (due : s.recoveryDue c = true) (more : 1 < s.recovery c) :
    visitRecovering c s = some ((s.visitedClient c).setRecovery c (s.recovery c - 1)) := by
  rw [visitRecovering, if_pos due, if_neg (Nat.not_le.mpr more)]

theorem visitRecovering_completing (due : s.recoveryDue c = true) (last : s.recovery c ≤ 1) :
    visitRecovering c s = some ((s.visitedClient c).completeRecovery c) := by
  rw [visitRecovering, if_pos due, if_pos last]

theorem completeVisit_completing (due : s.recoveryDue c = true) (last : s.recovery c ≤ 1) :
    completeVisit c s = some ((s.visitedClient c).completeRecovery c) := if_pos ⟨due, last⟩

end

end Sys2Proof.Machine

open Sys2Proof Sys2Proof.Machine in
/-- Settles O34: the visit that finds 1 completes the recovery under either row, and the visits before it count down. -/
theorem recoveryCountsDownAndCompletes : Obligations.RecoveryCountsDownAndCompletes := by
  intro s c running recovering inSweep
  have due : s.quiet.recoveryDue c = true := (State.recoveryDue_iff s.quiet c).mpr ⟨recovering, inSweep⟩
  refine ⟨fun more => takeEvent_running s _ _ running (visitRecovering_counting due more), fun one => ?_⟩
  have last : s.quiet.recovery c ≤ 1 := Nat.le_of_eq one
  have visit : exec (.recoveryVisit c) s = .next ((s.quiet.visitedClient c).completeRecovery c) :=
    takeEvent_running s _ _ running (visitRecovering_completing due last)
  have complete : exec (.recoveryComplete c) s = .next ((s.quiet.visitedClient c).completeRecovery c) :=
    takeEvent_running s _ _ running (completeVisit_completing due last)
  refine ⟨visit.trans complete.symm, ?_⟩
  rw [complete, State.completeRecovery_eq, State.recovered_visitedClient]
  rfl
end

section
/-! PROOFS. ENABLE_CLIENT and DISABLE_CLIENT at a client that they accept (R112, R135, R136). -/

namespace Sys2Proof.Machine

section
variable {s : State} {k : Taken} {c : ClientId}

/-! ## What the owner decides -/

section
variable (target : c ≠ 0) (noTeardown : (s.client c).teardown = none)
include target noTeardown

theorem enableTaken_resumes (disabled : (s.client c).state = .disabled) (pending : (s.client c).recoveryPending = true) :
    enableTaken k c s =
      (s.setClient c { s.client c with state := .recovering, recoveryPending := false }).answer k .ok := by
  rw [enableTaken, State.onClient_of_open _ _ target noTeardown]
  simp [disabled, pending]

theorem enableTaken_isolates (disabled : (s.client c).state = .disabled) (noRecovery : (s.client c).recoveryPending = false)
    (top : (s.standing c).score = 255) : enableTaken k c s = s.isolate c (some k.ref) := by
  rw [enableTaken, State.onClient_of_open _ _ target noTeardown]
  simp [disabled, noRecovery, top, Config.topScore]

theorem enableTaken_activates (disabled : (s.client c).state = .disabled) (noRecovery : (s.client c).recoveryPending = false)
    (below : (s.standing c).score ≠ 255) :
    enableTaken k c s = (s.setClient c { s.client c with state := .active }).answer k .ok := by
  rw [enableTaken, State.onClient_of_open _ _ target noTeardown]
  simp [disabled, noRecovery, below, Config.topScore]

theorem disableTaken_active (active : (s.client c).state = .active) :
    disableTaken k c s = ((s.setClient c { s.client c with state := .disabled }).abandonRead c).answer k .ok := by
  rw [disableTaken, State.onClient_of_open _ _ target noTeardown]
  simp [active]

theorem disableTaken_recovering (recovering : (s.client c).state = .recovering) :
    disableTaken k c s =
      ((s.setClient c { s.client c with state := .disabled, recoveryPending := true }).forgetClient c).answer k .ok := by
  rw [disableTaken, State.onClient_of_open _ _ target noTeardown]
  simp [recovering]

end

/-! ## The answer to a command that changed its target -/

variable {r : Record}

theorem State.setClient_answer (target : c ≠ 0) (v : ClientRecord) (status : Status) :
    ((s.recordTaken 0).setClient c v).answer (s.takenAs 0 r) status = (s.replied 0 r status .empty).setClient c v :=
  (State.answer_eq _ _ _ _ _).trans (State.answeredTo_setClient _ target.symm _ _)

/-- The loss of a read in flight is no matter of the control ring, on which the command is answered. -/
theorem State.abandonRead_answer (target : c ≠ 0) (v : ClientRecord) (status : Status) :
    (((s.recordTaken 0).setClient c v).abandonRead c).answer (s.takenAs 0 r) status =
      ((s.replied 0 r status .empty).setClient c v).setRing c { s.ring c with fetch := (s.ring c).fetch.abandon } := by
  rw [State.abandonRead, State.ring_setClient, State.ring_recordTaken_of_ne s target, State.answer_eq, State.alsoReplied,
    State.answeredTo_setRing _ target.symm, State.answeredTo_setClient _ target.symm]
  rfl

theorem State.forgetClient_answer (target : c ≠ 0) (v : ClientRecord) (status : Status) :
    (((s.recordTaken 0).setClient c v).forgetClient c).answer (s.takenAs 0 r) status =
      ((s.replied 0 r status .empty).setClient c v).forgetClient c :=
  (State.answer_eq _ _ _ _ _).trans (congrArg (State.forgetClient · c) (State.answeredTo_setClient _ target.symm _ _))

/-! ## The commands -/

theorem exec_enableClient (ready : Ready s 0 .enableClient r) (hf : Decode.clientField r = some c) :
    exec (.enableClient 0) s = .next (enableTaken (s.takenAs 0 r) c (s.recordTaken 0)) :=
  takeEvent_command Decode.clientField enableTaken ready hf

theorem exec_disableClient (ready : Ready s 0 .disableClient r) (hf : Decode.clientField r = some c) :
    exec (.disableClient 0) s = .next (disableTaken (s.takenAs 0 r) c (s.recordTaken 0)) :=
  takeEvent_command Decode.clientField disableTaken ready hf

/-- A DISABLE_CLIENT of an ACTIVE client (R136). -/
theorem exec_disableClient_active (ready : Ready s 0 .disableClient r) (hf : Decode.clientField r = some c) (target : c ≠ 0)
    (noTeardown : (s.client c).teardown = none) (active : (s.client c).state = .active) :
    exec (.disableClient 0) s = .next (((s.replied 0 r .ok .empty).setClient c { s.client c with state := .disabled }).setRing c
      { s.ring c with fetch := (s.ring c).fetch.abandon }) := by
  rw [exec_disableClient ready hf, disableTaken_active (s := s.recordTaken 0) target noTeardown active,
    State.abandonRead_answer target]
  rfl

end

end Sys2Proof.Machine

open Sys2Proof Sys2Proof.Machine in
/-- Settles O49: each command's owner decides on its target, and its answer leaves the target as it stands. -/
theorem enableAndDisableClient : Obligations.EnableAndDisableClient := by
  refine ⟨fun s r c ready hf target noTeardown disabled => ⟨fun pending => ?_, fun noRecovery top => ?_, fun noRecovery below => ?_⟩,
    fun s r c ready hf target noTeardown => ⟨fun active noRead => ?_, fun index left active reading => ?_, fun recovering => ?_⟩⟩
  · rw [exec_enableClient ready hf, enableTaken_resumes (s := s.recordTaken 0) target noTeardown disabled pending,
      State.setClient_answer target]
    rfl
  · rw [exec_enableClient ready hf, enableTaken_isolates (s := s.recordTaken 0) target noTeardown disabled noRecovery top]
    rfl
  · rw [exec_enableClient ready hf, enableTaken_activates (s := s.recordTaken 0) target noTeardown disabled noRecovery below,
      State.setClient_answer target]
    rfl
  · have sameRing : ((s.replied 0 r .ok .empty).setClient c { s.client c with state := .disabled }).ring c = s.ring c :=
      (State.ring_setRing_of_ne _ _ _ _ target).trans (State.ring_recordTaken_of_ne s target)
    rw [exec_disableClient_active ready hf target noTeardown active, FetchState.abandon_of_not_fetching noRead, ← sameRing,
      State.setRing_same]
    rfl
  · rw [exec_disableClient_active ready hf target noTeardown active, reading]
    rfl
  · rw [exec_disableClient ready hf, disableTaken_recovering (s := s.recordTaken 0) target noTeardown recovering]
    exact ⟨_, congrArg Host.Outcome.next (State.forgetClient_answer target _ _), rfl, rfl, rfl⟩
end

section
/-! PROOFS. START judges the control ring registers (R148). -/

namespace Sys2Proof.Machine

/-- A base is good when it is a multiple of 4,096 (R134, R148). -/
theorem validBase_iff (a : HostAddr) : validBase a = true ↔ a.toNat % 4096 = 0 := by
  rw [validBase, beq_iff_eq, ← BitVec.toNat_inj]
  simp [BitVec.extractLsb'_toNat]

/-- A size is good when it is a power of two from 16 to 4,096 (R114, R134, R148). -/
theorem validSize_iff (n : Nat) : validSize n = true ↔ ∃ k, 4 ≤ k ∧ k ≤ 12 ∧ n = 2 ^ k := by
  constructor
  · intro h
    simp only [validSize, List.contains_iff_mem, List.mem_cons, List.not_mem_nil, or_false] at h
    rcases h with rfl | rfl | rfl | rfl | rfl | rfl | rfl | rfl | rfl
    exacts [⟨4, by decide⟩, ⟨5, by decide⟩, ⟨6, by decide⟩, ⟨7, by decide⟩, ⟨8, by decide⟩, ⟨9, by decide⟩, ⟨10, by decide⟩,
      ⟨11, by decide⟩, ⟨12, by decide⟩]
  · rintro ⟨k, least, most, rfl⟩
    interval_cases k <;> rfl

/-- The low word of a base alone says whether it is a multiple of 4,096 (11.3). -/
theorem validBase_append (high low : Word) : validBase (high ++ low) = true ↔ low.toNat % 4096 = 0 := by
  rw [validBase_iff, BitVec.toNat_append, ← Nat.shiftLeft_add_eq_or_of_lt low.isLt, Nat.shiftLeft_eq]
  omega

theorem Registers.place_eq (g : Registers) :
    g.place = { sqBase := g.sqBaseHigh ++ g.sqBaseLow, sqSize := g.sizes.toNat % 65536,
                cqBase := g.cqBaseHigh ++ g.cqBaseLow, cqSize := g.sizes.toNat / 65536 } := by
  have high : g.sizes.toNat / 65536 < 65536 := Nat.div_lt_of_lt_mul g.sizes.isLt
  simp [Registers.place, BitVec.extractLsb'_toNat, Nat.shiftRight_eq_div_pow, Nat.mod_eq_of_lt high]

theorem validControlRings_iff (g : Registers) :
    validControlRings g = true ↔ g.sqBaseLow.toNat % 4096 = 0 ∧ g.cqBaseLow.toNat % 4096 = 0 ∧
      (∃ k, 4 ≤ k ∧ k ≤ 12 ∧ g.sizes.toNat % 65536 = 2 ^ k) ∧ ∃ k, 4 ≤ k ∧ k ≤ 12 ∧ g.sizes.toNat / 65536 = 2 ^ k := by
  simp only [validControlRings, Registers.place_eq, Bool.and_eq_true, validBase_append, validSize_iff, and_assoc]

section
variable {s : State}

theorem startEngine_starts (stopped : s.engine = .stopped) (good : validControlRings s.regs = true) :
    startEngine s =
      ({ s.quiet with engine := .running, startRefusal := .none,
                      clock := { s.clock with elapsed := 0, owed := [] } }).setRing 0 { s.ring 0 with place := s.regs.place } := by
  rw [startEngine, if_pos stopped, if_pos good]

theorem startEngine_refuses (stopped : s.engine = .stopped) (bad : validControlRings s.regs ≠ true) :
    startEngine s = { s.quiet with startRefusal := .badControlRing } := by
  rw [startEngine, if_pos stopped, if_neg bad]

theorem startEngine_ignored (started : s.engine ≠ .stopped) : startEngine s = s := if_neg started

end

end Sys2Proof.Machine

open Sys2Proof Sys2Proof.Machine in
/-- Settles O59: the registers are good exactly when the test of START accepts them. -/
theorem startJudgesTheControlRings : Obligations.StartJudgesTheControlRings := by
  intro s size good
  have judged : validControlRings s.regs = true ↔ good := validControlRings_iff s.regs
  refine ⟨fun stopped isGood => ?_, fun stopped bad => ?_, fun started => congrArg Host.Outcome.next (startEngine_ignored started)⟩
  · refine congrArg Host.Outcome.next ((startEngine_starts stopped (judged.mpr isGood)).trans ?_)
    rw [Registers.place_eq]
    rfl
  · exact congrArg Host.Outcome.next (startEngine_refuses stopped (mt judged.mp bad))
end

section
/-! PROOFS. WATCH and UNWATCH: the check order of a placement, and the removal of the requester's watch (R88, R91, R92). -/

namespace Sys2Proof.Machine

/-- Intake neither windows nor adjusts a request that names no lock (R105, R122). -/
theorem takeEvent_namelessRequest {α : Type} {s : State} {q : ClientId} {op : Decode.Opcode} {r : Record} {f : α}
    (read : Record → Option α) (owner : Taken → α → State → State) (ready : Ready s q op r) (hf : read r = some f)
    (request : op.isCommand = false) :
    takeEvent s (fun s1 => s1.takeRecord q op read noNames noAdjust owner) =
      .next (owner (s.takenAs q r) f (s.recordTaken q)) := by
  refine (takeEvent_record read noNames noAdjust owner f ready hf (by simp [request]) (by simp [State.windowAdmits, noNames])).trans ?_
  rw [show noAdjust s.limits f = f from rfl, ite_self]

theorem State.ownsWatch_iff (s : State) (c : ClientId) (t : Tag) :
    s.ownsWatch c t = true ↔ ∃ w ∈ s.watches, w.owner = c ∧ w.tag = t := by
  simp [State.ownsWatch]

theorem State.ownsWatch_iff_owned (s : State) (c : ClientId) (t : Tag) :
    s.ownsWatch c t = true ↔ ∃ w ∈ s.watches.filter (fun w => w.owner == c), w.tag = t := by
  simp [State.ownsWatch_iff, and_assoc]

section
variable {s : State} {k : Taken} {f : Decode.WatchFields} {x : Tag}

/-! ## What the owner decides -/

theorem watchTaken_duplicate (owns : s.ownsWatch k.client k.tag = true) : watchTaken k f s = s.answer k .duplicateWait :=
  if_pos owns

theorem watchTaken_overQuota (new : ¬ s.ownsWatch k.client k.tag = true) (quota : 8 ≤ s.watchCount k.client) :
    watchTaken k f s = s.answer k .quotaWatches := by
  rw [watchTaken, if_neg new]
  exact if_pos quota

theorem watchTaken_full (new : ¬ s.ownsWatch k.client k.tag = true) (room : s.watchCount k.client < 8)
    (full : 64 ≤ s.watches.length) : watchTaken k f s = s.answer k .tableFull := by
  rw [watchTaken, if_neg new, if_neg (show ¬ Config.watchLimit ≤ _ from Nat.not_le.mpr room)]
  exact if_pos full

theorem watchTaken_placed (new : ¬ s.ownsWatch k.client k.tag = true) (room : s.watchCount k.client < 8)
    (free : s.watches.length < 64) :
    watchTaken k f s = ({ s with watches := s.watches ++ [newWatch k f] } : State).answer k .ok := by
  rw [watchTaken, if_neg new, if_neg (show ¬ Config.watchLimit ≤ _ from Nat.not_le.mpr room),
    if_neg (show ¬ Config.watchEntries ≤ _ from Nat.not_le.mpr free)]

theorem unwatchTaken_found (owns : s.ownsWatch k.client x = true) :
    unwatchTaken k x s =
      ({ s with watches := s.watches.filter (fun w => !(w.owner == k.client && w.tag == x)) } : State).answer k .ok :=
  if_pos owns

theorem unwatchTaken_notFound (absent : ¬ s.ownsWatch k.client x = true) : unwatchTaken k x s = s.answer k .notFound :=
  if_neg absent

/-! ## The requests -/

variable {q : ClientId} {r : Record}

theorem exec_watch (ready : Ready s q .watch r) (hf : Decode.watchFields r = some f) :
    exec (.watch q) s = .next (watchTaken (s.takenAs q r) f (s.recordTaken q)) :=
  takeEvent_namelessRequest Decode.watchFields watchTaken ready hf rfl

theorem exec_unwatch (ready : Ready s q .unwatch r) :
    exec (.unwatch q) s = .next (unwatchTaken (s.takenAs q r) (Decode.field r 8 4) (s.recordTaken q)) :=
  takeEvent_namelessRequest Decode.targetTag unwatchTaken ready rfl rfl

/-- An answer with the watch table as the request leaves it. -/
theorem State.answer_watches (ws : List Watch) (status : Status) :
    ({ s.recordTaken q with watches := ws } : State).answer (s.takenAs q r) status =
      { s.replied q r status .empty with watches := ws } :=
  State.answer_eq _ _ _ _ _

end

end Sys2Proof.Machine

open Sys2Proof Sys2Proof.Machine in
/-- Settles O35: the owner's checks in their order, then the placement. -/
theorem watchIsPlacedOrRefused : Obligations.WatchIsPlacedOrRefused := by
  intro q s r f ready hf tag owned
  have owns : (s.recordTaken q).ownsWatch (s.takenAs q r).client (s.takenAs q r).tag = true ↔ ∃ w ∈ owned, w.tag = tag :=
    State.ownsWatch_iff_owned s q tag
  have isNew : (∀ w ∈ owned, w.tag ≠ tag) → ¬ (s.recordTaken q).ownsWatch (s.takenAs q r).client (s.takenAs q r).tag = true :=
    fun new h => let ⟨w, hw, same⟩ := owns.mp h; new w hw same
  rw [exec_watch ready hf]
  refine ⟨fun mine => ?_, fun new quota => ?_, fun new room full => ?_, fun new room free => ?_⟩
  · rw [watchTaken_duplicate (owns.mpr mine), State.answer_eq, State.replied_eq]
  · rw [watchTaken_overQuota (isNew new) quota, State.answer_eq, State.replied_eq]
  · rw [watchTaken_full (isNew new) room full, State.answer_eq, State.replied_eq]
  · rw [watchTaken_placed (isNew new) room free, State.answer_watches]
    rfl

open Sys2Proof Sys2Proof.Machine in
/-- Settles O36: the owner's filter takes out the requester's watch of the target tag, or finds none. -/
theorem unwatchRemovesTheRequestersWatch : Obligations.UnwatchRemovesTheRequestersWatch := by
  intro q s r ready target
  have owns : (s.recordTaken q).ownsWatch (s.takenAs q r).client target = true ↔ ∃ w ∈ s.watches, w.owner = q ∧ w.tag = target :=
    State.ownsWatch_iff s q target
  rw [exec_unwatch ready]
  refine ⟨fun mine => ?_, fun absent => ?_⟩
  · rw [unwatchTaken_found (owns.mpr mine), State.answer_watches]
    exact ⟨_, rfl, rfl, List.filter_sublist, fun w => by
      simp [State.takenAs_client, State.recordTaken, -not_and, not_and_or]⟩
  · rw [unwatchTaken_notFound fun h => let ⟨w, hw, mine⟩ := owns.mp h; absent w hw mine, State.answer_eq, State.replied_eq]
end

section
/-! PROOFS. The Watch Filter takes a watch event and tells the owners of the watches that match it (R89, R93, R94). -/

namespace Sys2Proof.Machine

/-- Lock events in front with no watch event of the name do not hold up its oldest one (R93). -/
theorem takeWatchEvent_behind {ev : WatchEvent} (evs : List WatchEvent) (before after : List (List WatchEvent))
    (others : ∀ b ∈ before, b ≠ [] ∧ ∀ x ∈ b, x.name ≠ ev.name) :
    takeWatchEvent ev.name (before ++ (ev :: evs) :: after) =
      some (ev, before ++ if evs = [] then after else evs :: after) := by
  induction before with
  | nil => simp [takeWatchEvent]
  | cons b before ih =>
    obtain ⟨⟨nonempty, apart⟩, othersBehind⟩ := List.forall_mem_cons.mp others
    cases b with
    | nil => exact absurd rfl nonempty
    | cons x xs =>
      obtain ⟨headApart, tailApart⟩ := List.forall_mem_cons.mp apart
      have noneBehind : ¬ xs.any (fun y => y.name == ev.name) = true := by simpa using tailApart
      rw [List.cons_append, takeWatchEvent, if_neg headApart, if_neg noneBehind, ih othersBehind]
      rfl

theorem State.watchMatches_iff (s : State) (ev : WatchEvent) (w : Watch) :
    s.watchMatches ev w = true ↔ w.events.getLsbD (eventCode ev.kind) = true ∧ ev.name &&& w.mask = w.code &&& w.mask ∧
      ev.name &&& (s.client w.owner).config.windowMask =
        (s.client w.owner).config.windowCode &&& (s.client w.owner).config.windowMask := by
  simp [State.watchMatches, Watch.covers, ClientRecord.admits, covers, and_assoc]

/-- A notice leaves the windows as they stand, by which the next watches are judged. -/
theorem State.watchMatches_noticedTo (s : State) (c : ClientId) (n : Notice) (ev : WatchEvent) :
    (s.noticedTo c n).watchMatches ev = s.watchMatches ev := by
  funext w
  simp [State.watchMatches]

theorem State.matchAll_eq (ev : WatchEvent) (ws : List Watch) : ∀ s : State,
    s.matchAll ev ws = (ws.filter (s.watchMatches ev)).foldl (fun t w => t.noticedTo w.owner (w.notice ev)) s := by
  induction ws with
  | nil => exact fun _ => rfl
  | cons w ws ih =>
    intro s
    have first : s.matchAll ev (w :: ws) =
        (if s.watchMatches ev w then s.notify w.owner (w.notice ev) else s).matchAll ev ws := rfl
    rw [first, ih, List.filter_cons]
    split
    · rw [State.notify_eq, State.watchMatches_noticedTo, List.foldl_cons]
    · rfl

theorem matchNext_eq {s : State} {name : Name} {ev : WatchEvent} {rest : List (List WatchEvent)}
    (oldest : takeWatchEvent name s.watchEvents = some (ev, rest)) :
    matchNext name s = some ((s.watches.filter (s.watchMatches ev)).foldl (fun t w => t.noticedTo w.owner (w.notice ev))
      { s with watchEvents := rest }) := by
  rw [matchNext, oldest]
  exact congrArg some (State.matchAll_eq _ _ _)

end Sys2Proof.Machine

open Sys2Proof Sys2Proof.Machine in
/-- Settles O37: the event found is the one behind the other locks' events, and each notice leaves the later tests as they stand. -/
theorem watchEventMatchesInPlacementOrder : Obligations.WatchEventMatchesInPlacementOrder := by
  intro s before after ev evs running transit others bit hit
  have matched : s.quiet.watchMatches ev = fun w => decide (hit w) := by
    funext w
    rw [Bool.eq_iff_iff, decide_eq_true_iff]
    exact State.watchMatches_iff s ev w
  have oldest : takeWatchEvent ev.name s.quiet.watchEvents =
      some (ev, before ++ if evs = [] then after else evs :: after) :=
    (congrArg (takeWatchEvent ev.name) transit).trans (takeWatchEvent_behind evs before after others)
  have taken := matchNext_eq oldest
  rw [matched] at taken
  exact takeEvent_running s _ _ running taken
end

section
/-! PROOFS. What becomes of one notice (R95, R114, R126, R127). -/

namespace Sys2Proof.Machine

namespace RingContext

theorem handed_accepted (r : RingContext) (rec : Completion) : (r.accepted rec).handed = r.handed ++ [rec] := by
  unfold accepted handed
  rcases hw : r.writing with _ | w <;> rcases hq : r.waiting with _ | ⟨old, ws⟩ <;> simp [writeOf]

theorem handed_claimed (r : RingContext) (n : Notice) : (r.claimed n).handed = r.handed ++ [.notice n] :=
  handed_accepted _ _

theorem reserved_claimed (r : RingContext) (n : Notice) : (r.claimed n).reserved = r.reserved + 1 := by
  rw [claimed, accepted_frame]

theorem notices_claimed (r : RingContext) (n : Notice) : (r.claimed n).notices = r.notices := by
  rw [claimed, accepted_frame]

section
variable {c : ClientId} {r : RingContext} {n : Notice}

theorem noticed_written (free : 1 ≤ r.free) (noneWaits : r.notices = []) : r.noticed c n = r.claimed n :=
  if_pos ⟨free, noneWaits⟩

theorem noticed_kept (blocked : ¬ (1 ≤ r.free ∧ r.notices = [])) (kind : n.isWatch = false)
    (room : r.notices.length < if c = 0 then 8 else 4) : r.noticed c n = { r with notices := r.notices ++ [n] } := by
  rw [noticed, if_neg blocked, if_pos ⟨by rw [kind]; rfl, room⟩]

theorem noticed_lost (blocked : ¬ (1 ≤ r.free ∧ r.notices = []))
    (unkept : n.isWatch = true ∨ (if c = 0 then 8 else 4) ≤ r.notices.length) :
    r.noticed c n = { r with lost := if r.lost < 65535 then r.lost + 1 else r.lost } := by
  rw [noticed, if_neg blocked, if_neg]
  rintro ⟨kind, room⟩
  rcases unkept with watch | full
  · simp [watch] at kind
  · exact Nat.not_lt.mpr full room

end

end RingContext

theorem State.ring_noticedTo_self {s : State} {c : ClientId} (written : (s.client c).muted = false)
    (noSwap : (s.client c).swap = none) (n : Notice) : (s.noticedTo c n).ring c = (s.ring c).noticed c n := by
  rw [State.noticedTo, if_neg (by simp [written, noSwap]), State.ring_withRing_self]

/-- A notice reaches its client's ring and the link, and nothing else. -/
theorem State.noticedTo_frame (s : State) (c : ClientId) (n : Notice) : s.noticedTo c n =
    { s with rings := s.rings.set c ((s.noticedTo c n).ring c), linkOut := (s.noticedTo c n).linkOut } := by
  rw [State.noticedTo_eq, State.ring_withRing_self]
  rfl

end Sys2Proof.Machine

open Sys2Proof Sys2Proof.Machine in
/-- Settles O41: the ring context alone decides what becomes of a notice of a client that is written to. -/
theorem noticeIsWrittenKeptOrLost : Obligations.NoticeIsWrittenKeptOrLost := by
  intro s c n noSwap t r free depth
  have noticed : t = s.noticedTo c n := State.notify_eq s c n
  clear_value t
  subst noticed
  refine ⟨State.noticedTo_frame s c n, fun muted => if_pos (.inl muted), fun written room noneWaits => ?_,
    fun written blocked kind room => ?_, fun written blocked unkept => ?_⟩
  · rw [State.ring_noticedTo_self written noSwap, RingContext.noticed_written room noneWaits]
    exact ⟨RingContext.handed_claimed r n, RingContext.reserved_claimed r n,
      (RingContext.notices_claimed r n).trans noneWaits⟩
  · rw [State.ring_noticedTo_self written noSwap, RingContext.noticed_kept blocked kind room]
  · rw [State.ring_noticedTo_self written noSwap, RingContext.noticed_lost blocked unkept]
end

section
/-! PROOFS. The last two steps of a teardown: the watches go, and the end actions follow the cause (R97, R137, R142). -/

namespace Sys2Proof.Machine

/-- The command, if any, that waited for a teardown is answered OK on the control ring, in the words of the claims (R142). -/
theorem State.answerWaiting_eq (s : State) (waiting : Option CommandRef) : s.answerWaiting waiting =
    waiting.elim s (fun ref => s.answeredTo 0 { status := .ok, tag := ref.tag, index := ref.index, body := .empty }) := by
  cases waiting with
  | none => rfl
  | some ref => exact State.respond_eq s 0 _

section
variable {s : State} {c : ClientId} {d : Teardown}

theorem State.tornDown_true (teardown : (s.client c).teardown ≠ none) (noRecord : ∀ r, (s.ring c).fetch ≠ .inHand r)
    (noWait : (s.account c).waits = 0) (noHold : (s.account c).holds = []) : s.tornDown c = true := by
  rw [State.tornDown, State.tearingDown_true teardown noRecord, noWait, noHold]
  rfl

theorem State.watchCount_eq_zero_iff (s : State) (c : ClientId) : s.watchCount c = 0 ↔ ∀ w ∈ s.watches, w.owner ≠ c := by
  simp [State.watchCount, List.filter_eq_nil_iff]

theorem removeWatchesStep_tornDown (torn : s.tornDown c = true) :
    removeWatchesStep c s = some { s with watches := s.watches.filter (fun w => w.owner != c) } := if_pos torn

/-- The teardown ends once no watch, no read and no write of the client is left (R142). -/
theorem endTeardownStep_ends (teardown : (s.client c).teardown = some d) (torn : s.tornDown c = true)
    (noWatch : ∀ w ∈ s.watches, w.owner ≠ c) (noRead : (s.ring c).fetch = .idle) (noWrite : (s.ring c).writing = none) :
    endTeardownStep c s = some (s.finishTeardown c d) := by
  rw [endTeardownStep, teardown]
  exact if_pos (by simp [torn, (s.watchCount_eq_zero_iff c).mpr noWatch, noRead, noWrite])

theorem endTeardownStep_absent
    (left : (∃ w ∈ s.watches, w.owner = c) ∨ (s.ring c).fetch ≠ .idle ∨ (s.ring c).writing ≠ none) :
    endTeardownStep c s = none := by
  rw [endTeardownStep]
  split
  · rfl
  · refine if_neg fun gone => ?_
    simp only [Bool.and_eq_true, beq_iff_eq, State.watchCount_eq_zero_iff, Option.isNone_iff_eq_none] at gone
    obtain ⟨⟨⟨-, noWatch⟩, noRead⟩, noWrite⟩ := gone
    rcases left with ⟨w, hw, mine⟩ | reading | writing
    · exact noWatch w hw mine
    · exact reading noRead
    · exact writing noWrite

/-! ## The end actions of each cause -/

/-- The four tables that a reset clears at the client, as they stand after the clearing steps (R137). -/
theorem State.clearForReset_eq (s : State) (c : ClientId) : s.clearForReset c = { s with
    clients := s.clients.set c { s.client c with state := .disabled, teardown := none },
    accounts := s.accounts.set c { s.account c with expired := [] },
    standings := s.standings.set c Standing.reset,
    rings := s.rings.set c (RingContext.reset (s.ring c).place) } := rfl

theorem State.finishTeardown_halt (cause : d.cause = .halt) :
    s.finishTeardown c d = (s.setClient c { s.client c with teardown := none }).answerWaiting d.waiting := by
  rw [State.finishTeardown, cause]

theorem State.finishTeardown_reset (cause : d.cause = .reset) :
    s.finishTeardown c d = (s.clearForReset c).answerWaiting d.waiting := by
  rw [State.finishTeardown, cause]

theorem State.finishTeardown_isolated (cause : d.cause = .isolation) (isolated : (s.client c).state = .isolated) :
    s.finishTeardown c d =
      ((s.setClient c { s.client c with teardown := none }).noticedTo 0 (.clientStanding c .isolated 255)).answerWaiting
        d.waiting := by
  rw [State.finishTeardown, cause, ← State.notify_eq]
  simp [isolated, Config.topScore]

theorem State.finishTeardown_isolation_over (cause : d.cause = .isolation) (elsewhere : (s.client c).state ≠ .isolated) :
    s.finishTeardown c d = (s.setClient c { s.client c with teardown := none }).answerWaiting d.waiting := by
  rw [State.finishTeardown, cause]
  simp [elsewhere]

end

end Sys2Proof.Machine

open Sys2Proof Sys2Proof.Machine in
/-- Settles O55: step four and step five of a teardown whose waits and holds are gone. -/
theorem teardownEndActions : Obligations.TeardownEndActions := by
  intro s c d running _ teardown noRecord noWait noHold ended told
  have torn : s.quiet.tornDown c = true :=
    State.tornDown_true (s := s.quiet) (fun absent => by cases teardown.symm.trans absent) noRecord noWait noHold
  have answered : ∀ t : State, t.answerWaiting d.waiting = told t := fun t => by
    dsimp only [told]
    rw [State.answerWaiting_eq]
    cases d.waiting <;> rfl
  refine ⟨takeEvent_running s _ _ running (removeWatchesStep_tornDown torn), fun noWatch noRead noWrite => ?_,
    fun left => takeEvent_absent s _ (endTeardownStep_absent (s := s.quiet) left)⟩
  have finish : exec (.teardownEnd c) s = .next (s.quiet.finishTeardown c d) :=
    takeEvent_running s _ _ running (endTeardownStep_ends (s := s.quiet) teardown torn noWatch noRead noWrite)
  rw [finish]
  refine ⟨fun cause => ?_, fun cause isolated => ?_, fun cause elsewhere => ?_, fun cause => ?_⟩
  · rw [State.finishTeardown_halt cause, answered]
    rfl
  · rw [State.finishTeardown_isolated (s := s.quiet) cause isolated, answered]
    rfl
  · rw [State.finishTeardown_isolation_over (s := s.quiet) cause elsewhere, answered]
    rfl
  · rw [State.finishTeardown_reset cause, answered]
    exact congrArg (fun t => Host.Outcome.next (told t)) (State.clearForReset_eq s.quiet c)
end

section
/-! PROOFS. The refusals of the commands that name a client, in the order of R133 (R109, R130, R135, R136, R137). -/

namespace Sys2Proof.Machine

theorem State.onClient_control {s : State} {c : ClientId} (k : Taken) (body : State → State) (control : c = 0) :
    s.onClient k c body = s.answer k .badRequest := if_pos control

theorem State.onClient_underTeardown {s : State} {c : ClientId} (k : Taken) (body : State → State) (target : c ≠ 0)
    (teardown : (s.client c).teardown ≠ none) : s.onClient k c body = s.answer k .teardownPending := by
  rw [State.onClient, if_neg target, if_pos (Option.isSome_iff_ne_none.mpr teardown)]

section
variable {s : State} {r : Record} {c : ClientId}

/-- A command refused by its owner: its record is answered, and nothing else has changed. -/
theorem State.recordTaken_answer (s : State) (q : ClientId) (r : Record) (status : Status) :
    (s.recordTaken q).answer (s.takenAs q r) status = s.replied q r status .empty := State.answer_eq _ _ _ _ _

/-- Whatever command names a client, its refusals come in the order of R133: client 0, a teardown, and then the states that the
command's own conditions leave out. -/
theorem refusals_in_order {i : Instr} {body : State → State} {accepts : Prop}
    (run : exec i s = .next ((s.recordTaken 0).onClient (s.takenAs 0 r) c body))
    (conditions : ¬ accepts → body (s.recordTaken 0) = (s.recordTaken 0).answer (s.takenAs 0 r) .wrongState) :
    (c = 0 → exec i s = .next (s.replied 0 r .badRequest .empty)) ∧
    (c ≠ 0 → (s.client c).teardown ≠ none → exec i s = .next (s.replied 0 r .teardownPending .empty)) ∧
    (c ≠ 0 → (s.client c).teardown = none → ¬ accepts → exec i s = .next (s.replied 0 r .wrongState .empty)) := by
  rw [run]
  refine ⟨fun control => ?_, fun target teardown => ?_, fun target noTeardown refused => ?_⟩
  · rw [State.onClient_control _ _ control, State.recordTaken_answer]
  · rw [State.onClient_underTeardown (s := s.recordTaken 0) _ _ target teardown, State.recordTaken_answer]
  · rw [State.onClient_of_open (s := s.recordTaken 0) _ _ target noTeardown, conditions refused, State.recordTaken_answer]

theorem exec_resetClient (ready : Ready s 0 .resetClient r) (hf : Decode.clientField r = some c) :
    exec (.resetClient 0) s = .next (resetTaken (s.takenAs 0 r) c (s.recordTaken 0)) :=
  takeEvent_command Decode.clientField resetTaken ready hf

theorem exec_reinstateClient (ready : Ready s 0 .reinstateClient r) (hf : Decode.clientField r = some c) :
    exec (.reinstateClient 0) s = .next (reinstateTaken (s.takenAs 0 r) c (s.recordTaken 0)) :=
  takeEvent_command Decode.clientField reinstateTaken ready hf

end

end Sys2Proof.Machine

open Sys2Proof Sys2Proof.Machine in
/-- Settles O48: the first two refusals are those of every command that names a client, the third is the owner's own condition. -/
theorem lifecycleRefusalsInOrder : Obligations.LifecycleRefusalsInOrder := by
  rintro op s r c ready hf (rfl | rfl | rfl | rfl)
  · exact refusals_in_order (exec_enableClient ready hf) fun notDisabled => if_pos notDisabled
  · refine refusals_in_order (exec_disableClient ready hf) fun refused => ?_
    obtain ⟨notActive, notRecovering⟩ := not_or.mp refused
    exact (if_neg notActive).trans (if_neg notRecovering)
  · exact refusals_in_order (exec_resetClient ready hf) fun refused => if_pos (not_not.mp refused)
  · exact refusals_in_order (exec_reinstateClient ready hf) fun notIsolated => if_pos notIsolated
end

section
/-! PROOFS. Scores and grades: a charge, a credit, SET_LIMITS and SET_STANDING regrade a client in one way, the score and its
grade set together and a change of grade told (R100 to R104, R106, R107, R111). -/

namespace Sys2Proof.Machine

/-! ## A score is set and the client graded -/

theorem Limits.grades_good {l : Limits} {n : Nat} (below : n < l.warning) : l.grades n = .good := if_pos below

theorem Limits.grades_warned {l : Limits} {n : Nat} (warning : l.warning ≤ n) (below : n < l.restricted) :
    l.grades n = .warned := by
  rw [Limits.grades, if_neg (Nat.not_lt.mpr warning), if_pos below]

theorem Limits.grades_restricted {l : Limits} {n : Nat} (warning : l.warning ≤ n) (restricted : l.restricted ≤ n) :
    l.grades n = .restricted := by
  rw [Limits.grades, if_neg (Nat.not_lt.mpr warning), if_neg (Nat.not_lt.mpr restricted)]

namespace State

@[simp] theorem setStanding_same (s : State) (c : ClientId) : s.setStanding c (s.standing c) = s := by
  simp [setStanding, standing]

@[simp] theorem tellGrade_same (s : State) (c : ClientId) (g : Grade) (n : Nat) : s.tellGrade c g g n = s := if_pos (.inl rfl)

theorem tellGrade_muted {s : State} {c : ClientId} (muted : (s.client c).muted = true) (old new : Grade) (n : Nat) :
    s.tellGrade c old new n = s := if_pos (.inr muted)

theorem tellGrade_changed {s : State} {c : ClientId} {old new : Grade} (changed : old ≠ new)
    (written : ¬ (s.client c).muted = true) (n : Nat) : s.tellGrade c old new n =
      if new = .restricted then
        (s.noticedTo c (.standing old new n)).noticedTo 0 (.clientStanding c .enteredRestricted n)
      else s.noticedTo c (.standing old new n) := if_neg (not_or.mpr ⟨changed, written⟩)

/-- What is told of a grade reaches rings and the link alone. -/
theorem tellGrade_keeps (s : State) (c : ClientId) (old new : Grade) (n : Nat) :
    (s.tellGrade c old new n).clients = s.clients ∧ (s.tellGrade c old new n).standings = s.standings := by
  unfold tellGrade
  dsimp only
  split
  · exact ⟨rfl, rfl⟩
  · split <;> simp

theorem rescored_eq (s : State) (c : ClientId) (n : Nat) : s.rescored c n =
    (s.setStanding c { score := n, grade := s.limits.grades n }).tellGrade c (s.standing c).grade (s.limits.grades n) n := rfl

@[simp] theorem clients_rescored (s : State) (c : ClientId) (n : Nat) : (s.rescored c n).clients = s.clients :=
  (tellGrade_keeps _ c _ _ n).left

@[simp] theorem client_rescored (s : State) (c d : ClientId) (n : Nat) : (s.rescored c n).client d = s.client d :=
  congrArg (·[d]) (clients_rescored s c n)

theorem standing_rescored_self (s : State) (c : ClientId) (n : Nat) :
    (s.rescored c n).standing c = { score := n, grade := s.limits.grades n } := by
  rw [standing, rescored_eq, (tellGrade_keeps _ c _ _ n).right]
  exact standing_setStanding_self s c _

/-- The client has the new score, and the grade of the score's band (R102). -/
theorem rescored_graded (s : State) (c : ClientId) (n : Nat) : ((s.rescored c n).standing c).score = n ∧
    (n < s.limits.warning → ((s.rescored c n).standing c).grade = .good) ∧
    (s.limits.warning ≤ n → n < s.limits.restricted → ((s.rescored c n).standing c).grade = .warned) ∧
    (s.limits.warning ≤ n → s.limits.restricted ≤ n → ((s.rescored c n).standing c).grade = .restricted) := by
  rw [standing_rescored_self]
  exact ⟨rfl, Limits.grades_good, Limits.grades_warned, Limits.grades_restricted⟩

theorem regrade_control (s : State) : s.regrade 0 = s := by simp [regrade]

/-- The Standing Unit's regrade, in the words of the claims: the score stays, and the grade is that of the score (R103). -/
theorem regrade_eq {c : ClientId} (s : State) (target : c ≠ 0) : s.regrade c = s.rescored c (s.standing c).score := by
  rw [rescored_eq, regrade]
  dsimp only
  rw [gradeOf_eq_grades]
  by_cases same : s.limits.grades (s.standing c).score = (s.standing c).grade
  · rw [if_pos (.inr same), same, tellGrade_same]
    exact (setStanding_same s c).symm
  · rw [if_neg (not_or.mpr ⟨target, same⟩)]
    split
    · next muted => rw [tellGrade_muted muted]
    · next written =>
      rw [tellGrade_changed (Ne.symm same) written]
      simp only [notify_eq]

/-- The score that stood before is no matter to a client that is scored again. -/
theorem rescored_setScore (s : State) (c : ClientId) (m n : Nat) : (s.setScore c m).rescored c n = s.rescored c n := by
  simp [rescored, setScore, setStanding, standing]

theorem setScore_regrade {c : ClientId} (s : State) (target : c ≠ 0) (n : Nat) :
    (s.setScore c n).regrade c = s.rescored c n := by
  rw [regrade_eq _ target, rescored_setScore, setScore, standing_setStanding_self]

/-! ## Charges and credits -/

theorem applyCharge_control (s : State) (n : Nat) : s.applyCharge 0 n = s := if_pos rfl

theorem applyCharge_eq {c : ClientId} (s : State) (target : c ≠ 0) (n : Nat) : s.applyCharge c n =
    if (s.standing c).score < 255 ∧ min 255 ((s.standing c).score + n) = 255 ∧
        ((s.client c).state = .active ∨ (s.client c).state = .disabled) ∧ (s.client c).teardown = none then
      (s.rescored c (min 255 ((s.standing c).score + n))).isolate c none
    else s.rescored c (min 255 ((s.standing c).score + n)) := by
  rw [applyCharge, if_neg target]
  simp only [setScore_regrade s target, client_rescored, ClientRecord.isolable_iff]
  rfl

/-- Isolation finds the client as it stood before the charge. -/
theorem isolate_rescored (s : State) (c : ClientId) (n : Nat) : (s.rescored c n).isolate c none =
    { s.rescored c n with clients := s.clients.set c { s.client c with
        state := .isolated, teardown := some { cause := .isolation, waiting := none } } } := by
  rw [isolate, setClient, clients_rescored, client_rescored]

theorem applyCredit_stays {s : State} {c : ClientId} (stays : c = 0 ∨ (s.standing c).score = 0 ∨ 255 ≤ (s.standing c).score) :
    s.applyCredit c = s := by
  unfold applyCredit
  split
  · rfl
  · exact if_pos (stays.resolve_left ‹_›)

theorem applyCredit_falls {s : State} {c : ClientId} (target : c ≠ 0) (least : 1 ≤ (s.standing c).score)
    (most : (s.standing c).score ≤ 254) : s.applyCredit c = s.rescored c ((s.standing c).score - 1) := by
  have falls : ¬ ((s.standing c).score = 0 ∨ Config.topScore ≤ (s.standing c).score) := by
    rw [show Config.topScore = 255 from rfl]
    omega
  rw [applyCredit, if_neg target, if_neg falls, setScore_regrade s target]

/-! ## Every configured client again -/

/-- The regrades leave the client records alone, by which the next clients are judged. -/
theorem regradeList_eq (cs : List ClientId) : ∀ s : State,
    cs.foldl (fun t c => if (t.client c).state = .unconfigured then t else t.regrade c) s =
      (cs.filter (fun c => c != 0 && (s.client c).state != .unconfigured)).foldl
        (fun t c => t.rescored c (t.standing c).score) s := by
  induction cs with
  | nil => exact fun _ => rfl
  | cons c cs ih =>
    intro s
    rw [List.foldl_cons, ih, List.filter_cons]
    by_cases unconfigured : (s.client c).state = .unconfigured
    · simp [unconfigured]
    by_cases control : c = 0
    · subst control
      rw [if_neg unconfigured, regrade_control]
      rfl
    · rw [if_neg unconfigured, if_pos (by simp [control, unconfigured]), List.foldl_cons, regrade_eq s control]
      simp only [client_rescored]

theorem regradeAll_eq (s : State) : s.regradeAll =
    (Config.allClients.filter (fun c => c != 0 && (s.client c).state != .unconfigured)).foldl
      (fun t c => t.rescored c (t.standing c).score) s := regradeList_eq _ s

end State

section
variable {s : State} {c : ClientId} {n : Nat} {r : Record}

/-! ## The events -/

theorem exec_standingCharge (running : s.engine = .running) (queued : .charge c n ∈ s.standingQueue) :
    exec (.standingCharge c n) s =
      .next (State.applyCharge { s with linkOut := [], standingQueue := s.standingQueue.erase (.charge c n) } c n) :=
  takeEvent_running s _ _ running (if_pos (List.contains_iff_mem.mpr queued))

theorem exec_standingCredit (running : s.engine = .running) (queued : .credit c ∈ s.standingQueue) :
    exec (.standingCredit c) s =
      .next (State.applyCredit { s with linkOut := [], standingQueue := s.standingQueue.erase (.credit c) } c) :=
  takeEvent_running s _ _ running (if_pos (List.contains_iff_mem.mpr queued))

theorem exec_setLimits {f : Decode.LimitFields} (ready : Ready s 0 .setLimits r) (hf : Decode.limitFields r = some f) :
    exec (.setLimits 0) s = .next (limitsTaken (s.takenAs 0 r) f (s.recordTaken 0)) :=
  takeEvent_command Decode.limitFields limitsTaken ready hf

theorem exec_setStanding {f : Decode.StandingFields} (ready : Ready s 0 .setStanding r)
    (hf : Decode.standingFields r = some f) :
    exec (.setStanding 0) s = .next (setStandingTaken (s.takenAs 0 r) f (s.recordTaken 0)) :=
  takeEvent_command Decode.standingFields setStandingTaken ready hf

/-! ## What the owners decide -/

variable {k : Taken}

/-- SET_STANDING at its target, once the target is not client 0 and not under teardown (R111). -/
def setStandingBody (k : Taken) (f : Decode.StandingFields) (s : State) : State :=
  if (s.client f.target).state ≠ .disabled then s.answer k .wrongState
  else
    ((((s.setScore f.target f.score).setRecovery f.target 0).setClient f.target
      { s.client f.target with recoveryPending := false }).regrade f.target).answer k .ok

/-- SET_STANDING judges its target as every command that names a client does (R133). -/
theorem setStandingTaken_eq (k : Taken) (f : Decode.StandingFields) (s : State) :
    setStandingTaken k f s = s.onClient k f.target (setStandingBody k f) := rfl

theorem setStandingBody_disabled {f : Decode.StandingFields} (target : f.target ≠ 0)
    (disabled : (s.client f.target).state = .disabled) :
    setStandingBody k f s = (State.rescored { s with
      clock := { s.clock with recovery := s.clock.recovery.set f.target 0 },
      clients := s.clients.set f.target { s.client f.target with recoveryPending := false } } f.target f.score).answer k .ok := by
  rw [setStandingBody, if_neg (not_not.mpr disabled), ← State.setScore_regrade _ target]
  rfl

theorem limitsTaken_valid {f : Decode.LimitFields} (valid : 1 ≤ f.warning ∧ f.warning < f.restricted ∧ f.restricted ≤ 254) :
    limitsTaken k f s = (State.regradeAll { s with
      limits := { warning := f.warning, restricted := f.restricted, recovery := f.recovery, leaseCap := f.leaseCap,
                  waitCap := f.waitCap } }).answer k .ok := if_pos valid

theorem limitsTaken_invalid {f : Decode.LimitFields}
    (invalid : ¬ (1 ≤ f.warning ∧ f.warning < f.restricted ∧ f.restricted ≤ 254)) :
    limitsTaken k f s = s.answer k .badRequest := if_neg invalid

end

end Sys2Proof.Machine

open Sys2Proof Sys2Proof.Machine in
/-- Settles O38: the score and its grade are set together, and only a charge that reaches 255 from below does more. -/
theorem chargesAndCredits : Obligations.ChargesAndCredits := by
  intro s c running old taken graded
  refine ⟨fun n queued control => ?_, fun n queued target => ⟨State.rescored_graded _ c _, fun isolates => ?_, fun stays => ?_⟩,
    fun queued stays => ?_, fun queued target least most => ⟨State.rescored_graded _ c _, ?_⟩⟩
  · subst control
    rw [exec_standingCharge running queued, State.applyCharge_control]
  · rw [exec_standingCharge running queued, State.applyCharge_eq _ target]
    exact congrArg Host.Outcome.next ((if_pos isolates).trans (State.isolate_rescored _ c _))
  · rw [exec_standingCharge running queued, State.applyCharge_eq _ target]
    exact congrArg Host.Outcome.next (if_neg stays)
  · rw [exec_standingCredit running queued, State.applyCredit_stays (s := taken (.credit c)) stays]
  · rw [exec_standingCredit running queued, State.applyCredit_falls (s := taken (.credit c)) target least most]
    rfl

open Sys2Proof Sys2Proof.Machine in
/-- Settles O39: the new limits stand before the first client is graded, and no regrade changes which clients follow. -/
theorem setLimitsRegradesEveryClient : Obligations.SetLimitsRegradesEveryClient := by
  intro s r f ready hf
  rw [exec_setLimits ready hf]
  refine ⟨fun invalid => ?_, fun valid => ?_⟩
  · rw [limitsTaken_invalid invalid, State.recordTaken_answer]
  · rw [limitsTaken_valid valid, State.regradeAll_eq, State.answer_eq]
    rfl

open Sys2Proof Sys2Proof.Machine in
/-- Settles O40: the refusals of a command that names a client, and at a DISABLED one the score set with its grade. -/
theorem setStandingAtADisabledClient : Obligations.SetStandingAtADisabledClient := by
  intro s r f ready hf
  have run := exec_setStanding ready hf
  rw [setStandingTaken_eq] at run
  obtain ⟨control, underTeardown, elsewhere⟩ := refusals_in_order (accepts := (s.client f.target).state = .disabled) run
    fun notDisabled => if_pos notDisabled
  refine ⟨control, underTeardown, elsewhere, fun target noTeardown disabled => ?_⟩
  rw [run, State.onClient_of_open (s := s.recordTaken 0) _ _ target noTeardown,
    setStandingBody_disabled (s := s.recordTaken 0) target disabled, State.answer_eq]
  rfl
end

section
/-! PROOFS. What the link was told of a completion write is in flight (R125, R154), and no epoch comes back (R151): the operations
that events are made of. -/

namespace Sys2Proof.Machine

/-! ## One ring context -/

/-- `b` comes after `a` in an event that hands records on: the ring and the producer index stand where they stood, a write in
flight stays, and a write that begins takes the slot at the producer index (R125). -/
structure RingContext.Advances (a b : RingContext) : Prop where
  later : a.Later b
  producer : b.cqProducer = a.cqProducer
  slot : a.writing = none → ∀ w, b.writing = some w → w.slot = a.cqProducer

namespace RingContext.Advances
variable {a b d : RingContext}

theorem of_same (place : b.place = a.place) (producer : b.cqProducer = a.cqProducer) (writing : b.writing = a.writing) :
    a.Advances b :=
  ⟨⟨place, fun _ h => writing.trans h⟩, producer, fun none w h => by rw [writing, none] at h; cases h⟩

theorem refl (a : RingContext) : a.Advances a := of_same rfl rfl rfl

theorem trans (h : a.Advances b) (k : b.Advances d) : a.Advances d := by
  refine ⟨h.later.trans k.later, k.producer.trans h.producer, fun none w hw => ?_⟩
  cases hb : b.writing with
  | none => exact (k.slot hb w hw).trans h.producer
  | some v =>
    have same : d.writing = some v := k.later.2 v hb
    rw [hw, Option.some_inj] at same
    exact h.slot none w (same ▸ hb)

theorem accepted (r : RingContext) (rec : Completion) : r.Advances (r.accepted rec) := by
  refine ⟨r.accepted_later rec, ?_, ?_⟩
  · unfold RingContext.accepted; split <;> rfl
  · intro idle w h
    unfold RingContext.accepted at h
    split at h
    · rename_i flying; rw [idle] at flying; cases flying
    all_goals cases h; rfl

theorem claimed (r : RingContext) (n : Notice) : r.Advances (r.claimed n) :=
  trans (b := { r with reserved := r.reserved + 1 }) (of_same rfl rfl rfl) (accepted _ (.notice n))

theorem answered (silent : Bool) (r : RingContext) (x : Response) : r.Advances (r.answered silent x) := by
  unfold RingContext.answered
  split
  · exact of_same rfl rfl rfl
  · exact accepted r _

theorem noticed (c : ClientId) (r : RingContext) (n : Notice) : r.Advances (r.noticed c n) := by
  unfold RingContext.noticed
  generalize (if c = 0 then 8 else 4) = depth
  split
  · exact claimed r n
  · split
    · exact of_same rfl rfl rfl
    · exact of_same rfl rfl rfl

theorem drained (r : RingContext) : r.Advances r.drained := by
  have claims (ns : List Notice) : ∀ a : RingContext, a.Advances (ns.foldl RingContext.claimed a) := by
    induction ns with
    | nil => exact refl
    | cons n ns ih => exact fun a => (claimed a n).trans (ih _)
  exact trans (b := { r with notices := r.notices.drop (min r.free r.notices.length) }) (of_same rfl rfl rfl) (claims _ _)

end RingContext.Advances

/-! ## What keeps the law of the link -/

/-- The way from `s` to `t` keeps the law of the link, and does not go back to an earlier epoch. -/
structure KeepsLink (s t : State) : Prop where
  law : LinkLaw s → LinkLaw t
  epoch : s.epoch ≤ t.epoch

/-- What the law of the link and the epoch are read from. -/
def State.linkSide (s : State) : Vector RingContext 32 × List LinkOutput × Epoch := (s.rings, s.linkOut, s.epoch)

namespace KeepsLink
variable {s t u : State} {c : ClientId} {k : Taken}

theorem refl (s : State) : KeepsLink s s := ⟨id, le_rfl⟩

theorem trans (h : KeepsLink s t) (k : KeepsLink t u) : KeepsLink s u := ⟨k.law ∘ h.law, h.epoch.trans k.epoch⟩

/-- Beside the rings and the link. -/
theorem aside (same : t.linkSide = s.linkSide) : KeepsLink s t := by
  obtain ⟨rings, link, epoch⟩ := Prod.mk.inj same |>.imp id Prod.mk.inj
  exact ⟨fun law => by unfold LinkLaw State.ring; rw [rings, link]; exact law, epoch.ge⟩

/-- Where the link was told nothing, whatever happened to the rings. -/
theorem silent (link : t.linkOut = []) (epoch : s.epoch ≤ t.epoch) : KeepsLink s t :=
  ⟨fun _ _ _ _ told => absurd (link ▸ told) List.not_mem_nil, epoch⟩

theorem ite {p : Prop} [Decidable p] (h : p → KeepsLink s t) (k : ¬ p → KeepsLink s u) : KeepsLink s (if p then t else u) := by
  split
  · exact h ‹_›
  · exact k ‹_›

/-- Records are handed on for one ring: what was told of it stays in flight, and a write that begins is told as it is. -/
theorem withRing {r : RingContext} (h : (s.ring c).Advances r) : KeepsLink s (s.withRing c r) := by
  refine ⟨fun law d a b told => ?_, le_rfl⟩
  rw [State.ring_withRing]
  rcases List.mem_append.mp told with before | now
  · obtain ⟨w, flying, slot, bytes, address⟩ := law d a b before
    split
    · rename_i e; subst d
      exact ⟨w, h.later.2 w flying, slot.trans h.producer.symm, bytes, by rw [h.later.1]; exact address⟩
    · exact ⟨w, flying, slot, bytes, address⟩
  · unfold RingContext.begins at now
    split at now
    · rename_i w idle flying
      obtain ⟨rfl, rfl, rfl⟩ := LinkOutput.writeBegin.inj (List.mem_singleton.mp now)
      rw [if_pos rfl]
      exact ⟨w, flying, (h.slot idle w flying).trans h.producer.symm, rfl, by rw [h.later.1]⟩
    · cases now

theorem setRing (s : State) (c : ClientId) (r : RingContext) (place : r.place = (s.ring c).place) (producer : r.cqProducer = (s.ring c).cqProducer)
    (writing : r.writing = (s.ring c).writing) : KeepsLink s (s.setRing c r) := by
  rw [State.setRing_eq_withRing _ _ _ writing]
  exact withRing (.of_same place producer writing)

/-- An output other than the beginning of a write. -/
theorem put (s : State) {o : LinkOutput} (other : ∀ c a b, o ≠ .writeBegin c a b) : KeepsLink s (s.put o) := by
  refine ⟨fun law c a b told => ?_, le_rfl⟩
  rcases List.mem_append.mp told with before | now
  · exact law c a b before
  · exact absurd (List.mem_singleton.mp now).symm (other c a b)

/-! ### The operations that the meanings share -/

theorem quiet (s : State) : KeepsLink s s.quiet := silent rfl le_rfl
theorem idleFetch (s : State) (c : ClientId) : KeepsLink s (s.idleFetch c) := setRing s c _ rfl rfl rfl
theorem dropWaiting (s : State) (c : ClientId) : KeepsLink s (s.dropWaiting c) := setRing s c _ rfl rfl rfl
theorem abandonRead (s : State) (c : ClientId) : KeepsLink s (s.abandonRead c) := setRing s c _ rfl rfl rfl

theorem respond (s : State) (c : ClientId) (x : Response) : KeepsLink s (s.respond c x) := by
  rw [State.respond_eq]; exact withRing (.answered _ _ x)

theorem notify (s : State) (c : ClientId) (n : Notice) : KeepsLink s (s.notify c n) := by
  rw [State.notify_eq]; exact ite (fun _ => refl s) (fun _ => withRing (.noticed c _ n))

theorem answerWith (s : State) (k : Taken) (status : Status) (body : Body) : KeepsLink s (s.answerWith k status body) :=
  respond s _ _
theorem answer (s : State) (k : Taken) (status : Status) : KeepsLink s (s.answer k status) := respond s _ _
theorem answerRef (s : State) (x : CommandRef) (status : Status) : KeepsLink s (s.answerRef x status) := respond s _ _

theorem answerRefs (status : Status) (refs : List CommandRef) :
    ∀ s : State, KeepsLink s (refs.foldl (fun t x => t.answerRef x status) s) := by
  induction refs with
  | nil => exact refl
  | cons x refs ih => exact fun s => (answerRef s x status).trans (ih _)

theorem answerWaiting (s : State) (w : Option CommandRef) : KeepsLink s (s.answerWaiting w) := by
  cases w with
  | none => exact refl s
  | some x => exact answerRef s x .ok

theorem drain (s : State) (c : ClientId) : KeepsLink s (s.drain c) := by
  cases h : (s.client c).muted with
  | true => unfold State.drain; rw [if_pos h]; exact refl s
  | false => rw [State.drain_eq s c h]; exact withRing (.drained _)

theorem releaseReservation (s : State) (c : ClientId) : KeepsLink s (s.releaseReservation c) :=
  (setRing s c _ (by rfl) (by rfl) (by rfl)).trans (drain _ c)

theorem settleRead (s : State) (c : ClientId) : KeepsLink s (s.settleRead c) := (idleFetch s c).trans (releaseReservation _ c)

theorem startWrite (s : State) (c : ClientId) : KeepsLink s (s.startWrite c) := by
  cases flying : (s.ring c).writing with
  | some w => rw [State.startWrite_of_writing s c w flying]; exact refl s
  | none =>
    cases waiting : (s.ring c).waiting with
    | nil => rw [State.startWrite_of_empty s c waiting]; exact refl s
    | cons rec rest =>
      rw [State.startWrite_of_waiting s c rec rest flying waiting]
      refine withRing ⟨⟨rfl, fun w h => by rw [flying] at h; cases h⟩, rfl, fun _ w h => ?_⟩
      cases h; rfl

theorem interruptIfArmed (s : State) (c : ClientId) : KeepsLink s (s.interruptIfArmed c) :=
  ite (fun _ => (setRing s c _ (by rfl) (by rfl) (by rfl)).trans (put _ fun _ _ _ => LinkOutput.noConfusion)) (fun _ => refl s)

theorem beginFetch (s : State) (c : ClientId) : KeepsLink s (s.beginFetch c) :=
  (setRing s c _ (by rfl) (by rfl) (by rfl)).trans (put _ fun _ _ _ => LinkOutput.noConfusion)

theorem handCharge (s : State) (c : ClientId) (n : Nat) : KeepsLink s (s.handCharge c n) := aside rfl

theorem refuseAtIntake (s : State) (k : Taken) (status : Status) (charge : Nat) :
    KeepsLink s (s.refuseAtIntake k status charge) :=
  ((idleFetch s k.client).trans (handCharge _ _ charge)).trans (answer _ k status)

theorem takeRecord {α : Type} {q : ClientId} {op : Decode.Opcode} {read : Record → Option α}
    {names : α → List Name} {adjust : Limits → α → α} {owner : Taken → α → State → State}
    (ho : ∀ k f u, KeepsLink u (owner k f u)) (h : s.takeRecord q op read names adjust owner = some t) : KeepsLink s t := by
  obtain ⟨r, -, ⟨status, charge, rfl⟩ | ⟨f, -, -, rfl⟩⟩ := takeRecord_cases h
  · exact refuseAtIntake s _ status charge
  · exact (idleFetch s q).trans (ho _ _ _)

end KeepsLink

end Sys2Proof.Machine
end

section
/-! PROOFS. The lock events keep the law of the link. -/

namespace Sys2Proof.Machine

namespace KeepsLink
variable {s t : State} {c : ClientId} {k : Taken}

/-! ### An event in progress at an entry -/

theorem endWaiter (s : State) (x : Waiter) (status : Status) : KeepsLink s (s.endWaiter x status) :=
  trans (t := s.returnWaiter x) (aside rfl) (respond _ _ _)

theorem endUpgrade (w : AtEntry) (u : PendingUpgrade) (status : Status) : KeepsLink w.state (w.endUpgrade u status).state :=
  trans (t := w.state.subWait u.client) (aside rfl) (respond _ _ _)

theorem endUpgradeOfSlot (w : AtEntry) (i : SlotId) (status : State → ClientId → Status) :
    KeepsLink w.state (w.endUpgradeOfSlot i status).state := by
  unfold AtEntry.endUpgradeOfSlot
  split
  · split
    · exact endUpgrade w _ _
    · exact refl _
  · exact refl _

theorem grantHold (w : AtEntry) (c : ClientId) (m : Mode) (lease : Nat) (tag : Tag) :
    KeepsLink w.state (w.grantHold c m lease tag).state := by
  unfold AtEntry.grantHold
  split
  · exact refl _
  · exact aside rfl

theorem grantWaiter (w : AtEntry) (x : Waiter) : KeepsLink w.state (w.grantWaiter x).state := by
  refine (grantHold w x.client x.mode x.lease x.tag).trans (trans (t := State.respond (State.returnWaiter _ x) _ _) ?_ (aside rfl))
  exact trans (t := State.returnWaiter _ x) (aside rfl) (respond _ _ _)

theorem convert (w : AtEntry) (u : PendingUpgrade) (h : Holder) : KeepsLink w.state (w.convert u h).state :=
  trans (t := w.state.subWait u.client) (aside rfl) (respond _ _ _)

theorem passWaiters (xs : List Waiter) : ∀ w : AtEntry, KeepsLink w.state (passWaiters xs w).state := by
  induction xs with
  | nil => exact fun w => refl w.state
  | cons x rest ih =>
    intro w
    unfold Machine.passWaiters
    split
    · exact (endWaiter w.state x _).trans (ih (w.onState fun s => s.endWaiter x (.cancelled .isolation)))
    · split
      · split
        · exact (endWaiter w.state x _).trans (ih (w.onState fun s => s.endWaiter x .quotaHolds))
        · exact (grantWaiter w x).trans (ih _)
      · exact refl w.state

theorem grantPass (w : AtEntry) : KeepsLink w.state w.grantPass.state := by
  unfold AtEntry.grantPass
  split
  · exact passWaiters _ w
  · split
    · exact (endUpgrade w _ _).trans (passWaiters _ _)
    · split
      · split
        · exact convert w _ _
        · exact refl _
      · exact refl _

theorem close (w : AtEntry) : KeepsLink w.state w.close := ite (fun _ => aside rfl) (fun _ => aside rfl)

theorem passAndClose (w : AtEntry) : KeepsLink w.state w.passAndClose := (grantPass w).trans (close _)

theorem insert (w : AtEntry) (x : Waiter) : KeepsLink w.state (w.insert x).state := by
  unfold AtEntry.insert
  extract_lets w1
  have inserted : KeepsLink w.state w1.state := aside rfl
  split
  · exact inserted.trans (grantPass w1)
  · exact inserted

/-- A hold is taken away, by whatever event. -/
theorem takenAway (w : AtEntry) (i : SlotId) (h : Holder) (f : State → State) (status : State → ClientId → Status)
    (hf : ∀ s, KeepsLink s (f s)) :
    KeepsLink w.state (((w.removeHold i h).onState f).endUpgradeOfSlot i status).passAndClose :=
  trans (t := f (w.removeHold i h).state) (trans (t := (w.removeHold i h).state) (aside rfl) (hf _))
    ((endUpgradeOfSlot ((w.removeHold i h).onState f) i status).trans (passAndClose _))

theorem revoke (w : AtEntry) (i : SlotId) (h : Holder) (status : State → ClientId → Status) :
    KeepsLink w.state (w.revoke i h status) :=
  takenAway w i h _ status fun s =>
    trans (t := (s.loseToken h.client h.token).emitHold .revoked w.entry.name h) (aside rfl) (notify _ _ _)

theorem endWaiterThere (w : AtEntry) (x : Waiter) (status : Status) : KeepsLink w.state (w.endWaiterThere x status) :=
  (endWaiter w.state x status).trans (ite
    (fun _ => passAndClose { entry := w.entry.dropWaiter x.client, state := w.state.endWaiter x status })
    (fun _ => close { entry := w.entry.dropWaiter x.client, state := w.state.endWaiter x status }))

theorem endUpgradeThere (w : AtEntry) (u : PendingUpgrade) (status : Status) : KeepsLink w.state (w.endUpgradeThere u status) :=
  (endUpgrade w u status).trans (passAndClose _)

/-! ### The owners of the lock records -/

/-- An answer beside a change of the lock table's side. -/
theorem answered {u : State} (k : Taken) (status : Status) (body : Body) (h : KeepsLink s u) :
    KeepsLink s (u.answerWith k status body) := h.trans (answerWith u k status body)

theorem grantAtOnce (w : AtEntry) (c : ClientId) (m : Mode) (lease : Nat) (tag : Tag) :
    KeepsLink w.state (w.grantAtOnce c m lease tag).state := (grantHold w c m lease tag).trans (aside rfl)

theorem grantName (s : State) (c : ClientId) (name : Name) (m : Mode) (lease : Nat) (tag : Tag) :
    KeepsLink s (s.grantName c name m lease tag) := by
  unfold State.grantName
  split
  · exact (grantAtOnce { entry := _, state := s } c m lease tag).trans (aside rfl)
  · refine trans (t := { s with freeEntries := s.freeEntries - 1 }) (aside rfl) ?_
    exact (grantAtOnce { entry := LockEntry.fresh name m, state := { s with freeEntries := s.freeEntries - 1 } } c m lease tag).trans
      (aside rfl)

theorem acquireBlocked (k : Taken) (f : Decode.AcquireFields) (lease : Nat) (e : LockEntry) (s : State) :
    KeepsLink s (acquireBlocked k f lease e s) :=
  ite (fun _ => answered k _ _ (aside rfl)) (fun _ => ite (fun _ => answered k _ _ (aside rfl)) (fun _ => ite (fun _ => answered k _ _ (aside rfl))
    (fun _ => (insert { entry := e, state := s } _).trans (close _))))

theorem acquireTaken (k : Taken) (f : Decode.AcquireFields) (s : State) : KeepsLink s (acquireTaken k f s) := by
  refine trans (t := s.countRequest k.client) (aside rfl) ?_
  unfold Machine.acquireTaken
  extract_lets u lease grant
  have granted : KeepsLink u grant := answered k _ _ (grantName u k.client f.name f.mode lease k.tag)
  split
  · exact ite (fun _ => answer _ k _) (fun _ => ite (fun _ => answer _ k _) (fun _ => ite (fun _ => answer _ k _)
      (fun _ => ite (fun _ => granted) (fun _ => acquireBlocked k f _ _ _))))
  · exact ite (fun _ => answer _ k _) (fun _ => ite (fun _ => answer _ k _) (fun _ => granted))

theorem contendAll (ps : List (Name × Mode)) (s : State) : KeepsLink s (s.contendAll ps) := by
  obtain ⟨table, same⟩ := State.contendAll_eq ps s
  rw [same]; exact aside rfl

theorem grantAll (c : ClientId) (lease : Nat) (tag : Tag) (ps : List (Name × Mode)) :
    ∀ s : State, KeepsLink s (s.grantAll c ps lease tag) := by
  induction ps with
  | nil => exact refl
  | cons p ps ih => exact fun s => (grantName s c p.1 p.2 lease tag).trans (ih _)

theorem setTaken (k : Taken) (f : Decode.SetFields) (s : State) : KeepsLink s (setTaken k f s) := by
  unfold Machine.setTaken
  refine ite (fun _ => answered k _ _ (aside rfl)) (fun _ => ?_)
  split
  · exact answer s k _
  · exact ite (fun _ => answer s k _) (fun _ => ite (fun _ => answer s k _) (fun _ => ite
      (fun _ => answered k _ _ (contendAll _ s)) (fun _ => answered k _ _ (grantAll _ _ _ _ s))))

theorem answerLost (s : State) (k : Taken) (x : Token) : KeepsLink s (s.answerLost k x) :=
  ite (fun _ => answer s k _) (fun _ => answered k _ _ (aside rfl))

theorem releaseTaken (k : Taken) (f : Decode.HoldFields) (s : State) : KeepsLink s (releaseTaken k f s) := by
  unfold Machine.releaseTaken
  split
  · exact takenAway { entry := _, state := s } _ _ _ _ fun _ => answered k _ _ (aside rfl)
  · exact answerLost s k _

theorem renewTaken (k : Taken) (f : Decode.RenewFields) (s : State) : KeepsLink s (renewTaken k f s) := by
  unfold Machine.renewTaken
  split
  · exact answered k _ _ (aside rfl)
  · exact answerLost s k _

theorem upgradeTaken (k : Taken) (f : Decode.UpgradeFields) (s : State) : KeepsLink s (upgradeTaken k f s) := by
  refine trans (t := s.countRequest k.client) (aside rfl) ?_
  unfold Machine.upgradeTaken
  extract_lets u
  split
  · exact ite (fun _ => answer _ k _) (fun _ => ite (fun _ => answered k _ _ (aside rfl)) (fun _ =>
      ite (fun _ => answer _ k _) (fun _ => ite (fun _ => answered k _ _ (aside rfl)) (fun _ =>
        ite (fun _ => answered k _ _ (aside rfl)) (fun _ => aside rfl)))))
  · exact answerLost _ k _

theorem downgradeTaken (k : Taken) (f : Decode.HoldFields) (s : State) : KeepsLink s (downgradeTaken k f s) := by
  unfold Machine.downgradeTaken
  split
  · exact ite (fun _ => answer s k _) (fun _ => (answer s k .ok).trans (passAndClose { entry := _, state := s.answer k .ok }))
  · exact answerLost s k _

theorem forceReleaseTaken (k : Taken) (f : Decode.HoldFields) (s : State) : KeepsLink s (forceReleaseTaken k f s) := by
  unfold Machine.forceReleaseTaken
  split
  · exact answered k _ _ (revoke { entry := _, state := s } _ _ _)
  · exact answer s k _

theorem cancelAt (s : State) (c : ClientId) (x : Tag) (g : CancelTarget) : KeepsLink s (s.cancelAt c x g) := by
  unfold State.cancelAt
  split
  · exact refl s
  · split
    · split
      · exact endUpgradeThere { entry := _, state := s } _ _
      · exact refl s
    · split
      · exact endWaiterThere { entry := _, state := s } _ _
      · exact refl s

theorem cancelTaken (k : Taken) (x : Tag) (s : State) : KeepsLink s (cancelTaken k x s) := by
  unfold Machine.cancelTaken
  split
  · exact answered k _ _ (cancelAt s _ x _)
  · exact answer s k _

theorem queryLockTaken (k : Taken) (name : Name) (s : State) : KeepsLink s (queryLockTaken k name s) := by
  unfold Machine.queryLockTaken
  split
  · exact answerWith s k _ _
  · exact answer s k _

/-! ### The events of the Lease Clock and of teardowns -/

theorem leaseExpiryAt {name : Name} {token : Token} (h : leaseExpiryAt name token s = some t) : KeepsLink s t := by
  unfold Machine.leaseExpiryAt at h
  split at h
  · cases h
  · rename_i e _
    split at h <;> cases h
    rename_i i x _
    exact takenAway { entry := e, state := s } i x _ _ fun u =>
      trans (t := ((u.loseToken x.client x.token).emitHold .expired name x).handCharge x.client Config.chargeLeaseExpiry) (aside rfl)
        (notify _ _ _)

theorem waitExpiryAt {name : Name} {tag : Tag} (h : waitExpiryAt name c tag s = some t) : KeepsLink s t := by
  unfold Machine.waitExpiryAt at h
  split at h
  · cases h
  · split at h <;> cases h
    exact endWaiterThere { entry := _, state := s } _ _

theorem upgradeWaitExpiryAt {name : Name} {tag : Tag} (h : upgradeWaitExpiryAt name tag s = some t) : KeepsLink s t := by
  unfold Machine.upgradeWaitExpiryAt at h
  split at h
  · cases h
  · split at h <;> cases h
    exact endUpgradeThere { entry := _, state := s } _ _

theorem removeWaiterStep {name : Name} (h : removeWaiterStep c name s = some t) : KeepsLink s t := by
  unfold Machine.removeWaiterStep at h
  split at h
  · split at h
    · split at h <;> cases h
      exact endWaiterThere { entry := _, state := s } _ _
    · cases h
  · cases h

theorem removeUpgradeStep {name : Name} (h : removeUpgradeStep c name s = some t) : KeepsLink s t := by
  unfold Machine.removeUpgradeStep at h
  split at h
  · split at h
    · split at h <;> cases h
      exact endUpgradeThere { entry := _, state := s } _ _
    · cases h
  · cases h

theorem revokeHoldStep (h : revokeHoldStep c s = some t) : KeepsLink s t := by
  unfold Machine.revokeHoldStep at h
  split at h
  · split at h
    · cases h
    · split at h
      · split at h <;> cases h
        · exact revoke { entry := _, state := s } _ _ _
        · exact aside rfl
      · cases h; exact aside rfl
  · cases h

theorem visitEntry {name : Name} (h : visitEntry name s = some t) : KeepsLink s t := by
  unfold Machine.visitEntry at h
  split at h
  · split at h <;> cases h
    exact aside rfl
  · cases h

/-! ### Taking a lock event -/

theorem lockEvent {f : State → Option State} (hf : ∀ {u v}, f u = some v → KeepsLink u v) (h : takeLockEvent s f = .next t) :
    KeepsLink s t := by
  refine takeLockEvent_keeps (P := KeepsLink s) (refl s) (fun u _ hu _ => ?_) (fun _ => silent rfl le_rfl) h
  exact trans (t := s.quiet.openBatch) (silent rfl le_rfl) (trans (t := u) (hf hu) (aside rfl))

/-- A lock event that is the taking of a record. -/
theorem lockRecord {α : Type} {q : ClientId} {op : Decode.Opcode} {read : Record → Option α} {names : α → List Name}
    {adjust : Limits → α → α} {owner : Taken → α → State → State} (ho : ∀ k f u, KeepsLink u (owner k f u))
    (h : takeLockEvent s (fun u => u.takeRecord q op read names adjust owner) = .next t) : KeepsLink s t :=
  lockEvent (fun hu => takeRecord ho hu) h

end KeepsLink

end Sys2Proof.Machine
end

section
/-! PROOFS. The events of clients, standing, queues, faults and resets keep the law of the link. -/

namespace Sys2Proof.Machine

/-- Behind a write in flight a released reservation begins nothing: what the freed slot takes waits (R125, R126). -/
theorem State.linkOut_releaseReservation {s : State} {c : ClientId} {w : WriteInFlight} (flying : (s.ring c).writing = some w) :
    (s.releaseReservation c).linkOut = s.linkOut := by
  cases muted : (s.client c).muted with
  | true =>
    rw [State.releaseReservation_of_muted s c muted]
    exact (congrArg _ (RingContext.begins_same c _ _ rfl)).trans (List.append_nil _)
  | false =>
    rw [State.releaseReservation_eq s c muted]
    have stays : (s.ring c).freed.drained.writing = some w := (s.ring c).freed.drained_later.2 w flying
    exact (congrArg _ (RingContext.begins_same c _ _ (stays.trans flying.symm))).trans (List.append_nil _)

namespace KeepsLink
variable {s t : State} {c : ClientId} {k : Taken}

/-- An event starts with a quiet link. -/
theorem event {f : State → Option State} (hf : ∀ {u v}, u.linkOut = [] → f u = some v → KeepsLink u v)
    (h : takeEvent s f = .next t) : KeepsLink s t :=
  takeEvent_keeps (P := KeepsLink s) (refl s) (fun _ _ hu => (quiet s).trans (hf rfl hu)) h

/-- A command whose owner keeps the law. -/
theorem record {α : Type} {q : ClientId} {op : Decode.Opcode} {read : Record → Option α} {names : α → List Name}
    {adjust : Limits → α → α} {owner : Taken → α → State → State} (ho : ∀ k f u, KeepsLink u (owner k f u))
    (h : takeEvent s (fun u => u.takeRecord q op read names adjust owner) = .next t) : KeepsLink s t :=
  event (fun _ hu => takeRecord ho hu) h

theorem report {epoch : Epoch} {o : Host.Outcome State Fault Refusal} (ho : o = .next t → KeepsLink s t)
    (h : takeReport epoch s o = .next t) : KeepsLink s t := takeReport_keeps (refl s) ho h

/-! ### Standing -/

theorem regrade (s : State) (c : ClientId) : KeepsLink s (s.regrade c) := by
  unfold State.regrade
  extract_lets old new s1 s2
  have graded : KeepsLink s s1 := aside rfl
  have told : KeepsLink s s2 := graded.trans (notify _ _ _)
  exact ite (fun _ => refl s) (fun _ => ite (fun _ => graded) (fun _ => ite (fun _ => told.trans (notify _ _ _)) (fun _ => told)))

theorem regradeAll (s : State) : KeepsLink s s.regradeAll := by
  unfold State.regradeAll
  generalize Config.allClients = cs
  induction cs generalizing s with
  | nil => exact refl s
  | cons c cs ih => exact (ite (fun _ => refl s) (fun _ => regrade s c)).trans (ih _)

theorem applyCharge (s : State) (c : ClientId) (n : Nat) : KeepsLink s (s.applyCharge c n) := by
  unfold State.applyCharge
  extract_lets old new s1
  have charged : KeepsLink s s1 := trans (t := s.setScore c new) (aside rfl) (regrade _ c)
  exact ite (fun _ => refl s) (fun _ => ite (fun _ => charged.trans (aside rfl)) (fun _ => charged))

theorem applyCredit (s : State) (c : ClientId) : KeepsLink s (s.applyCredit c) :=
  ite (fun _ => refl s) (fun _ => ite (fun _ => refl s) (fun _ =>
    trans (t := s.setScore c ((s.standing c).score - 1)) (aside rfl) (regrade _ c)))

theorem takeCharge {n : Nat} (h : takeCharge c n s = some t) : KeepsLink s t := by
  unfold Machine.takeCharge at h
  split at h <;> cases h
  exact trans (t := { s with standingQueue := s.standingQueue.erase (.charge c n) }) (aside rfl) (applyCharge _ c n)

theorem takeCredit (h : takeCredit c s = some t) : KeepsLink s t := by
  unfold Machine.takeCredit at h
  split at h <;> cases h
  exact trans (t := { s with standingQueue := s.standingQueue.erase (.credit c) }) (aside rfl) (applyCredit _ c)

theorem limitsTaken (k : Taken) (f : Decode.LimitFields) (s : State) : KeepsLink s (limitsTaken k f s) :=
  ite (fun _ => answered k _ _ (trans (t := { s with limits := ⟨f.warning, f.restricted, f.recovery, f.leaseCap, f.waitCap⟩ }) (aside rfl)
    (regradeAll _))) (fun _ => answer s k _)

theorem setStandingTaken (k : Taken) (f : Decode.StandingFields) (s : State) : KeepsLink s (setStandingTaken k f s) := by
  refine ite (fun _ => answer s k _) (fun _ => ite (fun _ => answer s k _) (fun _ => ite (fun _ => answer s k _) (fun _ => ?_)))
  refine answered k _ _ (trans (t := State.setClient _ f.target _) ?_ (regrade _ _))
  exact aside rfl

/-! ### Clients -/

theorem onClient (s : State) (k : Taken) (target : ClientId) (body : State → State) (h : KeepsLink s (body s)) :
    KeepsLink s (s.onClient k target body) :=
  ite (fun _ => answer s k _) (fun _ => ite (fun _ => answer s k _) (fun _ => h))

theorem configureTaken (k : Taken) (f : Decode.ConfigureFields) (s : State) : KeepsLink s (configureTaken k f s) :=
  onClient s k f.target _ (ite (fun _ => answer s k _) (fun _ => ite (fun _ => answer s k _) (fun _ => aside rfl)))

theorem enableTaken (k : Taken) (c : ClientId) (s : State) : KeepsLink s (enableTaken k c s) :=
  onClient s k c _ (ite (fun _ => answer s k _) (fun _ => ite (fun _ => answered k _ _ (aside rfl)) (fun _ =>
    ite (fun _ => aside rfl) (fun _ => answered k _ _ (aside rfl)))))

theorem disableTaken (k : Taken) (c : ClientId) (s : State) : KeepsLink s (disableTaken k c s) := by
  refine onClient s k c _ (ite (fun _ => ?_) (fun _ => ite (fun _ => answered k _ _ (aside rfl)) (fun _ => answer s k _)))
  exact answered k _ _ (trans (t := s.setClient c { s.client c with state := .disabled }) (aside rfl) (abandonRead _ c))

theorem resetTaken (k : Taken) (c : ClientId) (s : State) : KeepsLink s (resetTaken k c s) := by
  refine onClient s k c _ (ite (fun _ => answer s k _) (fun _ => ?_))
  exact trans (aside (by rfl)) (dropWaiting _ c)

theorem reinstateTaken (k : Taken) (c : ClientId) (s : State) : KeepsLink s (reinstateTaken k c s) :=
  onClient s k c _ (ite (fun _ => answer s k _) (fun _ => answered k _ _ (aside rfl)))

/-- The old ring is gone from a quiet link, so only the answers are told. -/
theorem swapRings (quiet : s.linkOut = []) (h : swapRings c s = some t) : KeepsLink s t := by
  obtain ⟨w, -, -, -, rfl⟩ := swapRings_cases h
  exact trans (t := State.setClient (s.setRing c _) c _) (silent quiet le_rfl) (answerRefs .ok w.waiting _)

theorem timebaseTaken (k : Taken) (n : Nat) (s : State) : KeepsLink s (timebaseTaken k n s) := answered k _ _ (aside rfl)

/-! ### Watches -/

theorem watchTaken (k : Taken) (f : Decode.WatchFields) (s : State) : KeepsLink s (watchTaken k f s) :=
  ite (fun _ => answer s k _) (fun _ => ite (fun _ => answer s k _) (fun _ => ite (fun _ => answer s k _)
    (fun _ => answered k _ _ (aside rfl))))

theorem unwatchTaken (k : Taken) (x : Tag) (s : State) : KeepsLink s (unwatchTaken k x s) :=
  ite (fun _ => answered k _ _ (aside rfl)) (fun _ => answer s k _)

theorem matchAll (ev : WatchEvent) (ws : List Watch) : ∀ s : State, KeepsLink s (s.matchAll ev ws) := by
  induction ws with
  | nil => exact refl
  | cons w ws ih => exact fun s => (ite (fun _ => notify s _ _) (fun _ => refl s)).trans (ih _)

theorem matchNext {name : Name} (h : matchNext name s = some t) : KeepsLink s t := by
  unfold Machine.matchNext at h
  split at h <;> cases h
  exact trans (aside (by rfl)) (matchAll _ _ _)

theorem removeWatchesStep (h : removeWatchesStep c s = some t) : KeepsLink s t := by
  unfold Machine.removeWatchesStep at h
  split at h <;> cases h
  exact aside rfl

/-! ### The queues -/

theorem postTaken {f : State → Option State} (hf : f s = some t → KeepsLink s t) (h : postTaken c f s = some t) :
    KeepsLink s t := by
  unfold Machine.postTaken at h
  split at h
  · cases h
  · exact hf h

theorem submitPost {index : BitVec 12} (h : submitPost c index s = some t) : KeepsLink s t := by
  unfold Machine.submitPost at h
  split at h <;> cases h
  exact setRing s c _ rfl rfl rfl

theorem consumedPost {index : BitVec 12} (h : consumedPost c index s = some t) : KeepsLink s t := by
  unfold Machine.consumedPost at h
  extract_lets r d at h
  split at h <;> cases h
  · exact (setRing s c _ (by rfl) (by rfl) (by rfl)).trans (drain _ c)
  · exact handCharge s c _

theorem armPost (h : armPost c s = some t) : KeepsLink s t := by
  cases h; exact setRing s c _ rfl rfl rfl

theorem fetchNext (h : fetchNext s = some t) : KeepsLink s t := by
  unfold Machine.fetchNext at h
  split at h
  · split at h <;> cases h
    exact trans (aside (by rfl)) (beginFetch _ _)
  · cases h

theorem returnRead {bytes : Record} (h : returnRead c bytes s = some t) : KeepsLink s t := by
  obtain ⟨_, _, -, ⟨-, -, -, rfl⟩ | ⟨-, rfl⟩⟩ := returnRead_cases h
  · exact setRing s c _ rfl rfl rfl
  · exact settleRead s c

/-- The write that ends was told of by an earlier event; the one that begins is told as it is. -/
theorem endWrite (quiet : s.linkOut = []) (h : endWrite c s = some t) : KeepsLink s t := by
  unfold Machine.endWrite at h
  split at h <;> cases h
  have ended : KeepsLink s ((s.setRing c (s.ring c).wrote).interruptIfArmed c) :=
    trans (t := s.setRing c (s.ring c).wrote) (silent quiet le_rfl) (interruptIfArmed _ c)
  exact ite (fun _ => ended) (fun _ => ended.trans (startWrite _ c))

theorem refuseUnknown (h : refuseUnknown c s = some t) : KeepsLink s t := by
  unfold Machine.refuseUnknown at h
  split at h
  · split at h <;> cases h
    exact refuseAtIntake s _ _ _
  · cases h

/-! ### The Lease Clock -/

theorem tickArrives (s : State) : KeepsLink s s.tickArrives := ite (fun _ => ite (fun _ => aside rfl) (fun _ => aside rfl)) (fun _ => aside rfl)

theorem unitPasses (s : State) : KeepsLink s s.unitPasses :=
  ite (fun _ => ite (fun _ => aside rfl) (fun _ => (quiet s).trans (tickArrives _))) (fun _ => refl s)

theorem startOwed (h : s.startOwed = some t) : KeepsLink s t := by
  unfold State.startOwed at h
  split at h
  · cases h
  · split at h <;> cases h
    exact aside rfl

theorem completeRecovery (s : State) (c : ClientId) : KeepsLink s (s.completeRecovery c) :=
  trans (t := (s.recovered c).notify c (.standing .restricted .good 0)) (trans (t := s.recovered c) (aside rfl) (notify _ _ _)) (notify _ _ _)

theorem visitRecovering (h : visitRecovering c s = some t) : KeepsLink s t := by
  unfold Machine.visitRecovering at h
  split at h
  · split at h <;> cases h
    · exact trans (t := s.visitedClient c) (aside rfl) (completeRecovery _ c)
    · exact aside rfl
  · cases h

theorem completeVisit (h : completeVisit c s = some t) : KeepsLink s t := by
  unfold Machine.completeVisit at h
  split at h <;> cases h
  exact trans (t := s.visitedClient c) (aside rfl) (completeRecovery _ c)

/-! ### Teardowns -/

/-- A reset teardown gives the client a fresh context while the link is quiet. -/
theorem finishTeardown (quiet : s.linkOut = []) (x : Teardown) : KeepsLink s (s.finishTeardown c x) := by
  unfold State.finishTeardown
  cases x.cause with
  | reset => exact trans (t := s.clearForReset c) (silent quiet le_rfl) (answerWaiting _ _)
  | halt => exact trans (t := s.setClient c _) (aside rfl) (answerWaiting _ _)
  | isolation =>
    have torn : KeepsLink s (s.setClient c { s.client c with teardown := none }) := aside rfl
    exact trans (ite (fun _ => torn.trans (notify _ _ _)) (fun _ => torn)) (answerWaiting _ _)

theorem endTeardownStep (quiet : s.linkOut = []) (h : endTeardownStep c s = some t) : KeepsLink s t := by
  unfold Machine.endTeardownStep at h
  split at h
  · cases h
  · split at h <;> cases h
    exact finishTeardown quiet _

/-! ### Faults -/

theorem clientFault (s : State) (f : FaultInfo) : KeepsLink s (s.clientFault f) := by
  refine ite (fun _ => aside rfl) (fun _ => trans (t := (s.offerFault f).haltClient f.client) ?_ (notify _ _ _))
  rw [State.haltClient_eq]
  exact trans (t := (s.offerFault f).dropWaiting f.client) (trans (t := s.offerFault f) (aside rfl) (dropWaiting _ _)) (aside rfl)

/-- The failed write was told of by an earlier event, and behind it nothing begins. -/
theorem settleWrite (quiet : s.linkOut = []) {w : WriteInFlight} (flying : (s.ring c).writing = some w) :
    KeepsLink s (s.settleWrite c) :=
  silent ((State.linkOut_releaseReservation flying).trans quiet) (by rw [State.RingsOnly.settleWrite s c])

theorem failSwap (s : State) (c : ClientId) : KeepsLink s (s.failSwap c) := by
  unfold State.failSwap
  split
  · exact refl s
  · exact trans (t := s.setClient c _) (aside rfl) (answerRefs .clientBusy _ _)

theorem offerOnly (s : State) (f : FaultInfo) : KeepsLink s (offerOnly s f) := silent rfl le_rfl

theorem clientReadFault (c : ClientId) (kind : FaultKind) (s : State) : KeepsLink s (clientReadFault c kind s) := by
  unfold Machine.clientReadFault
  split
  · exact refl s
  · exact refl s
  · refine ite (fun _ => refl s) (fun _ => ?_)
    split
    · exact ((quiet s).trans (settleRead _ c)).trans (clientFault _ _)
    · exact offerOnly s _
    · exact refl s

theorem clientWriteFault (c : ClientId) (kind : FaultKind) (s : State) : KeepsLink s (clientWriteFault c kind s) := by
  unfold Machine.clientWriteFault
  split
  · exact refl s
  · rename_i w flying
    refine ite (fun _ => refl s) (fun _ => ?_)
    split
    · exact (((quiet s).trans (settleWrite rfl flying)).trans (clientFault _ _)).trans (failSwap _ c)
    · exact offerOnly s _
    · exact refl s

theorem controlReadFault (kind : FaultKind) (s : State) : KeepsLink s (controlReadFault kind s) := by
  unfold Machine.controlReadFault
  split
  · exact refl s
  · exact refl s
  · split
    · exact silent rfl le_rfl
    · exact offerOnly s _
    · exact refl s

theorem controlWriteFault (kind : FaultKind) (s : State) : KeepsLink s (controlWriteFault kind s) := by
  unfold Machine.controlWriteFault
  split
  · exact refl s
  · split
    · exact silent rfl le_rfl
    · exact offerOnly s _
    · exact refl s

/-! ### Engine control -/

theorem startEngine (s : State) : KeepsLink s (startEngine s) :=
  ite (fun _ => ite (fun _ => silent rfl le_rfl) (fun _ => silent rfl le_rfl)) (fun _ => refl s)

theorem softReset (s : State) : KeepsLink s (softReset s) := silent rfl (Nat.le_succ _)
theorem fullReset (s : State) : KeepsLink s (fullReset s) := silent rfl (Nat.le_succ _)

theorem execSoftReset {andStart : Bool} (h : execSoftReset andStart s = .next t) : KeepsLink s t := by
  cases h; exact ite (fun _ => (softReset s).trans (startEngine _)) (fun _ => softReset s)

theorem registerWrite {offset : BitVec 12} {value : Word} (h : execRegisterWrite offset value s = .next t) : KeepsLink s t := by
  unfold execRegisterWrite at h
  generalize Decode.registerWrite offset value = i at h
  cases i with
  | submit c index => exact event (fun _ => postTaken submitPost) h
  | consumed c index => exact event (fun _ => postTaken consumedPost) h
  | arm c index => exact event (fun _ => postTaken armPost) h
  | start => cases h; exact startEngine s
  | softReset andStart => exact execSoftReset h
  | faultClear _ => cases h; exact aside rfl
  | _ => cases h; exact ite (fun _ => aside rfl) (fun _ => refl s)

/-! ### Every command -/

theorem exec {i : Instr} (h : exec i s = .next t) : KeepsLink s t := by
  cases i with
  | acquire q => exact lockRecord acquireTaken h
  | tryAcquireSet q => exact lockRecord setTaken h
  | release q => exact lockRecord releaseTaken h
  | renew q => exact lockRecord renewTaken h
  | upgrade q => exact lockRecord upgradeTaken h
  | downgrade q => exact lockRecord downgradeTaken h
  | cancel q => exact lockRecord cancelTaken h
  | forceRelease q => exact lockRecord forceReleaseTaken h
  | queryLock q => exact lockRecord queryLockTaken h
  | tickVisitEntry name => exact event (fun _ => visitEntry) h
  | leaseExpiry name x => exact lockEvent leaseExpiryAt h
  | waitExpiry name c x => exact lockEvent waitExpiryAt h
  | upgradeWaitExpiry name x => exact lockEvent upgradeWaitExpiryAt h
  | teardownRemoveWaiter c name => exact lockEvent removeWaiterStep h
  | teardownRemoveUpgrade c name => exact lockEvent removeUpgradeStep h
  | teardownRevokeHold c => exact lockEvent revokeHoldStep h
  | watch q => exact record watchTaken h
  | unwatch q => exact record unwatchTaken h
  | nop q => exact record (fun k _ u => answer u k _) h
  | configureClient q => exact record configureTaken h
  | configureClientRingSwap c => exact event swapRings h
  | enableClient q => exact record enableTaken h
  | disableClient q => exact record disableTaken h
  | resetClient q => exact record resetTaken h
  | reinstateClient q => exact record reinstateTaken h
  | setStanding q => exact record setStandingTaken h
  | queryClient q => exact record (fun k _ u => answerWith u k _ _) h
  | setTimebase q => exact record timebaseTaken h
  | setLimits q => exact record limitsTaken h
  | submit c index => exact event (fun _ => postTaken submitPost) h
  | consumed c index => exact event (fun _ => postTaken consumedPost) h
  | arm c index => exact event (fun _ => postTaken armPost) h
  | postUndefinedKind c index => cases h; exact refl s
  | start => cases h; exact startEngine s
  | softReset andStart => exact execSoftReset h
  | faultClear value => cases h; exact aside rfl
  | registerWrite offset value => exact registerWrite h
  | powerOn => cases h; exact fullReset s
  | hostLinkReset => cases h; exact fullReset s
  | fetchGrant => exact event (fun _ => fetchNext) h
  | fetchReadReturn access bytes => exact report (event fun _ => returnRead) h
  | completionWriteEnd access => exact report (event endWrite) h
  | clientSubmissionReadFault access kind => exact report (fun e => by cases e; exact clientReadFault _ _ s) h
  | clientCompletionWriteFault access kind => exact report (fun e => by cases e; exact clientWriteFault _ _ s) h
  | controlReadFault failure => exact report (fun e => by cases e; exact controlReadFault _ s) h
  | controlWriteFault failure => exact report (fun e => by cases e; exact controlWriteFault _ s) h
  | tick => exact event (f := fun u => some u.tickArrives) (fun _ e => by cases e; exact tickArrives _) h
  | owedTickSweep => exact event (fun _ => startOwed) h
  | recoveryVisit c => exact event (fun _ => visitRecovering) h
  | recoveryComplete c => exact event (fun _ => completeVisit) h
  | standingCharge c amount => exact event (fun _ => takeCharge) h
  | standingCredit c => exact event (fun _ => takeCredit) h
  | teardownRemoveWatches c => exact event (fun _ => removeWatchesStep) h
  | teardownEnd c => exact event endTeardownStep h
  | watchEventMatch name => exact event (fun _ => matchNext) h
  | unknownOpcode q => exact event (fun _ => refuseUnknown) h

theorem step (h : step s = .next t) : KeepsLink s t := by
  rcases step_cases h with rfl | ⟨i, rest, -, taken⟩
  · exact unitPasses s
  · exact trans (t := { s with pending := rest }) (aside rfl) (exec taken)

end KeepsLink

end Sys2Proof.Machine

open Sys2Proof.Machine in
/-- Settles O9: every operation that begins a write tells the link of it as it stands in its ring, a ring is replaced while the
link is quiet, and only a reset changes the epoch, to the next one. -/
theorem everyStepKeepsTheLinkLaw : Obligations.EveryStepKeepsTheLinkLaw :=
  ⟨fun _ _ law h => (KeepsLink.step h).law law, fun _ _ h => (KeepsLink.step h).epoch⟩
end

section
/-! PROOFS. POST words: SUBMIT, CONSUMED and ARM (R116 to R118). -/

namespace Sys2Proof.Machine

section
variable {s : State} {c : ClientId} {index : BitVec 12}

/-- A context replaced and its list then drained, for a client to which something is written (R126). -/
theorem State.drain_setRing (r : RingContext) (writing : r.writing = (s.ring c).writing) (place : r.place = (s.ring c).place) :
    (s.setRing c r).drain c = s.withRing c (if (s.client c).muted then r else r.drained) := by
  cases muted : (s.client c).muted with
  | true =>
    rw [if_pos rfl, State.drain, State.client_setRing, if_pos muted]
    exact State.setRing_eq_withRing s c r writing
  | false =>
    rw [if_neg Bool.false_ne_true, State.drain_eq _ _ (by simpa using muted), State.ring_setRing_self]
    exact State.withRing_setRing s c r _ writing place

theorem postTaken_configured (configured : (s.client c).state ≠ .unconfigured) (f : State → Option State) :
    postTaken c f s = f s := if_neg configured

/-- A word of a configured client, taken while the engine runs. -/
theorem takeEvent_post {f : State → Option State} {t : State} (running : s.engine = .running)
    (configured : (s.client c).state ≠ .unconfigured) (taken : f s.quiet = some t) : takeEvent s (postTaken c f) = .next t :=
  takeEvent_running s t _ running ((postTaken_configured (s := s.quiet) configured f).trans taken)

/-- A word that comes while the engine is not RUNNING, or that names an UNCONFIGURED client, is dropped (R116). -/
theorem takeEvent_postDropped (dropped : s.engine ≠ .running ∨ (s.client c).state = .unconfigured) (f : State → Option State) :
    takeEvent s (postTaken c f) = .next s := by
  rcases dropped with stands | unconfigured
  · exact takeEvent_not_running s _ stands
  · exact takeEvent_absent s _ (if_pos unconfigured)

theorem submitPost_below (below : index.toNat < (s.ring c).place.sqSize) :
    submitPost c index s = some (s.setRing c { s.ring c with sqPosted := index.toNat }) := if_pos below

theorem submitPost_beyond (beyond : (s.ring c).place.sqSize ≤ index.toNat) : submitPost c index s = none :=
  if_neg (Nat.not_lt.mpr beyond)

theorem execSubmit_beyond (beyond : (s.ring c).place.sqSize ≤ index.toNat) : exec (.submit c index) s = .next s := by
  refine takeEvent_absent s _ ?_
  unfold postTaken
  split
  · rfl
  · exact submitPost_beyond (s := s.quiet) beyond

/-- The way of the consumed head to a new index (R117). -/
def RingContext.consumedBy (r : RingContext) (index : BitVec 12) : Nat := ringDistance r.place.cqSize r.consumedHead index.toNat

theorem consumedPost_allowed (allowed : index.toNat < (s.ring c).place.cqSize ∧ (s.ring c).consumedBy index ≤ (s.ring c).occupied) :
    consumedPost c index s = some ((s.setRing c { s.ring c with
      consumedHead := index.toNat, occupied := (s.ring c).occupied - (s.ring c).consumedBy index }).drain c) := if_pos allowed

theorem consumedPost_refused
    (refused : ¬ (index.toNat < (s.ring c).place.cqSize ∧ (s.ring c).consumedBy index ≤ (s.ring c).occupied)) :
    consumedPost c index s = some (s.charged c 2) := if_neg refused

end

end Sys2Proof.Machine

open Sys2Proof Sys2Proof.Machine in
/-- Settles O42: a word is judged by the engine state and by its client's record before its own conditions. -/
theorem submitAndArmWords : Obligations.SubmitAndArmWords := by
  intro s c index
  exact ⟨fun running configured below => takeEvent_post running configured (submitPost_below (s := s.quiet) below),
    fun running configured => takeEvent_post running configured rfl, execSubmit_beyond, rfl,
    fun dropped => ⟨takeEvent_postDropped dropped _, takeEvent_postDropped dropped _, takeEvent_postDropped dropped _⟩⟩

open Sys2Proof Sys2Proof.Machine in
/-- Settles O43: the freed slots are drained into at once, and no other word moves the head. -/
theorem consumedFreesSlots : Obligations.ConsumedFreesSlots := by
  intro s c index running configured r distance moved
  refine ⟨fun inRing covered => ?_, fun refused => ?_⟩
  · refine (takeEvent_post running configured (consumedPost_allowed (s := s.quiet) ⟨inRing, covered⟩)).trans ?_
    exact congrArg Host.Outcome.next (State.drain_setRing (s := s.quiet) moved rfl rfl)
  · exact takeEvent_post running configured (consumedPost_refused (s := s.quiet) refused)
end

section
/-! PROOFS. The fetch arbiter (R119, R120). -/

namespace Sys2Proof.Machine

/-! ## The order of the search -/

/-- The client that the search reaches after `k` others (R120). -/
def searched (position k : Nat) : ClientId := Fin.ofNat 32 ((position + k) % 31 + 1)

/-- The number of clients that the search passes before it reaches this one (R120). -/
def turnOf (position : Nat) (c : ClientId) : Nat := (c.val + 30 - position) % 31

theorem val_searched (position k : Nat) : (searched position k).val = (position + k) % 31 + 1 :=
  Nat.mod_eq_of_lt (by omega)

theorem searched_ne_zero (position k : Nat) : searched position k ≠ 0 := by
  intro zero
  have := congrArg Fin.val zero
  rw [val_searched] at this
  cases this

theorem turnOf_searched {position k : Nat} (bounded : position ≤ 31) (hk : k < 31) : turnOf position (searched position k) = k := by
  rw [turnOf, val_searched]; omega

theorem searched_turnOf {position : Nat} {c : ClientId} (bounded : position ≤ 31) (other : c ≠ 0) :
    searched position (turnOf position c) = c := by
  have positive : c.val ≠ 0 := fun zero => other (Fin.ext zero)
  have := c.isLt
  refine Fin.ext ?_
  rw [val_searched, turnOf]; omega

/-! ## The grant -/

section
variable {s : State} {c : ClientId}

theorem State.arbiter_control (eligible : s.eligible 0 = true) : s.arbiter = some 0 := if_pos eligible

/-- The search ends at the eligible client whose turn comes first (R120). -/
theorem State.arbiter_search (bounded : s.roundRobin ≤ 31) (control : ¬ s.eligible 0 = true) (other : c ≠ 0)
    (eligible : s.eligible c = true)
    (first : ∀ d, d ≠ 0 → s.eligible d = true → turnOf s.roundRobin c ≤ turnOf s.roundRobin d) : s.arbiter = some c := by
  have passed : (List.range 31).find? (s.eligible ∘ searched s.roundRobin) = some (turnOf s.roundRobin c) := by
    refine List.find?_range_eq_some.mpr ⟨?_, List.mem_range.mpr (Nat.mod_lt _ (by decide)), fun k before => ?_⟩
    · rw [Function.comp_apply, searched_turnOf bounded other]; exact eligible
    · rw [Function.comp_apply, Bool.not_eq_true', ← Bool.not_eq_true]
      intro earlier
      have := first _ (searched_ne_zero _ k) earlier
      rw [turnOf_searched bounded (by have : turnOf s.roundRobin c < 31 := Nat.mod_lt _ (by decide); omega)] at this
      omega
  rw [State.arbiter, if_neg control]
  refine (List.find?_map (f := searched s.roundRobin) (l := List.range 31)).trans ?_
  rw [passed, Option.map_some, searched_turnOf bounded other]

theorem State.arbiter_none (nobody : ∀ d, ¬ s.eligible d = true) : s.arbiter = none := by
  rw [State.arbiter, if_neg (nobody 0)]
  exact List.find?_eq_none.mpr fun d _ => nobody d

theorem fetchNext_grants (free : s.readPathFree = true) (grant : s.arbiter = some c) :
    fetchNext s = some (({ s with roundRobin := if c = 0 then s.roundRobin else c.val }).beginFetch c) := by
  rw [fetchNext, if_pos free, grant]

theorem fetchNext_idle (idle : ¬ s.readPathFree = true ∨ s.arbiter = none) : fetchNext s = none := by
  unfold fetchNext
  rcases idle with busy | nobody
  · exact if_neg busy
  · rw [nobody]; exact ite_self none

theorem exec_fetchGrant (running : s.engine = .running) (free : s.readPathFree = true) (grant : s.arbiter = some c) :
    exec .fetchGrant s = .next { s with
      roundRobin := if c = 0 then s.roundRobin else c.val,
      rings := s.rings.set c { s.ring c with
        reserved := (s.ring c).reserved + 1, fetch := .fetching (s.ring c).sqConsumer false },
      linkOut := [.readBegin c ((s.ring c).place.sqBase + BitVec.ofNat 64 (64 * (s.ring c).sqConsumer))] } :=
  takeEvent_running s _ _ running (fetchNext_grants (s := s.quiet) free grant)

end

end Sys2Proof.Machine

open Sys2Proof Sys2Proof.Machine in
/-- Settles O44: the search reaches each client once, in the order of the turns. -/
theorem arbiterGrantsTheReadPath : Obligations.ArbiterGrantsTheReadPath := by
  refine ⟨rfl, fun s running bounded => ?_⟩
  intro eligible reading turn granted
  have judged : ∀ c, s.eligible c = true ↔ eligible c := s.eligible_iff
  have free : s.readPathFree = true ↔ ¬ reading := by
    simp only [State.readPathFree_iff, reading, not_exists, ne_eq]
  refine ⟨fun quiet control => ?_, fun c quiet control other isEligible first => ?_, fun idle => ?_⟩
  · exact exec_fetchGrant running (free.mpr quiet) (State.arbiter_control ((judged 0).mpr control))
  · have grant : s.arbiter = some c := State.arbiter_search bounded (mt (judged 0).mp control) other ((judged c).mpr isEligible)
      fun d notControl dEligible => first d notControl ((judged d).mp dEligible)
    refine (exec_fetchGrant running (free.mpr quiet) grant).trans ?_
    rw [if_neg other]
  · refine takeEvent_absent s _ (fetchNext_idle (s := s.quiet) (idle.imp (fun busy => mt free.mp (not_not.mpr busy)) fun nobody => ?_))
    exact State.arbiter_none (s := s) fun d dEligible => nobody d ((judged d).mp dEligible)
end

section
/-! PROOFS. The ends of reads and of completion writes without error (R121, R124, R125). -/

namespace Sys2Proof.Machine

section
variable {s : State} {c : ClientId}

/-- A read that is over without a record in hand: the reservation goes back, and the freed slot is drained into (R121, R126). -/
theorem State.settleRead_eq (s : State) (c : ClientId) : s.settleRead c =
    s.withRing c (if (s.client c).muted then (s.ring c).idled.freed else (s.ring c).idled.freed.drained) := by
  rw [State.settleRead, State.releaseReservation, State.idleFetch, State.ring_setRing_self, State.setRing_setRing]
  exact State.drain_setRing _ rfl rfl

section
variable {index : Nat} {left : Bool} {bytes : Record} (reading : (s.ring c).fetch = .fetching index left)
include reading

theorem returnRead_inHand (stayed : left = false ∧ (s.client c).state = .active ∧ (s.client c).teardown = none) :
    returnRead c bytes s = some (s.setRing c { s.ring c with
      sqConsumer := ((s.ring c).sqConsumer + 1) % (s.ring c).place.sqSize, fetch := .inHand bytes }) := by
  rw [returnRead, reading]; exact if_pos stayed

theorem returnRead_discarded (gone : ¬ (left = false ∧ (s.client c).state = .active ∧ (s.client c).teardown = none)) :
    returnRead c bytes s = some (s.settleRead c) := by
  rw [returnRead, reading]; exact if_neg gone

end

/-- The report of an access of the present epoch is an event (R151). -/
theorem takeReport_running {f : State → Option State} {t : State} (running : s.engine = .running) (taken : f s.quiet = some t) :
    takeReport s.epoch s (takeEvent s f) = .next t := by
  rw [takeReport_current, takeEvent_running s t f running taken]

/-- What goes out at the end of a write: the message of an armed client (R118). -/
def State.endMessage (s : State) (c : ClientId) : List LinkOutput :=
  if (s.ring c).armed then [.interrupt c (s.client c).config.vector] else []

/-- The state at the end of a write, before the next record of the ring begins (R118, R125). -/
theorem State.interruptIfArmed_wrote (s : State) (c : ClientId) : (s.setRing c (s.ring c).wrote).interruptIfArmed c =
    { s.setRing c (s.ring c).ended with linkOut := s.linkOut ++ s.endMessage c } := by
  have armed : (s.ring c).wrote.armed = (s.ring c).armed := rfl
  rw [State.interruptIfArmed, State.ring_setRing_self, State.setRing_setRing, armed, State.endMessage]
  cases h : (s.ring c).armed with
  | true => rfl
  | false =>
    have same : (s.ring c).ended = (s.ring c).wrote := by rw [RingContext.ended, ← h]; rfl
    rw [same, if_neg Bool.false_ne_true, if_neg Bool.false_ne_true, List.append_nil]
    rfl

theorem endWrite_eq {w : WriteInFlight} (writing : (s.ring c).writing = some w) :
    let t : State := { s.setRing c (s.ring c).ended with linkOut := s.linkOut ++ s.endMessage c }
    endWrite c s = some (if (s.client c).muted then t else t.startWrite c) := by
  rw [endWrite, if_pos (by rw [writing]; rfl), State.interruptIfArmed_wrote]
  rfl

/-- The next record takes the slot after the ended write (R125). -/
theorem State.startWrite_ended {rec : Completion} {rest : List Completion} (waiting : (s.ring c).waiting = rec :: rest)
    (out : List LinkOutput) :
    let next : RingContext := { (s.ring c).ended with writing := some ((s.ring c).ended.writeOf rec), waiting := rest, lost := 0 }
    ({ s.setRing c (s.ring c).ended with linkOut := out } : State).startWrite c =
      { s.setRing c next with linkOut := out ++ (s.ring c).ended.begins c next } := by
  have sameRing : ({ s.setRing c (s.ring c).ended with linkOut := out } : State).ring c = (s.ring c).ended :=
    s.ring_setRing_self c _
  rw [State.startWrite_of_waiting _ c rec rest (by rw [sameRing]; rfl) (by rw [sameRing]; exact waiting), State.withRing, sameRing]
  simp only [State.setRing, Vector.set_set]

end

end Sys2Proof.Machine

open Sys2Proof Sys2Proof.Machine in
/-- Settles O45: the record stays with the client that was ACTIVE throughout, and any other read is settled without it. -/
theorem readReturnsInHandOrDiscarded : Obligations.ReadReturnsInHandOrDiscarded := by
  intro s c index left bytes running reading
  refine ⟨fun stayed active noTeardown => ?_, fun gone => ?_⟩
  · exact takeReport_running running (returnRead_inHand (s := s.quiet) reading ⟨stayed, active, noTeardown⟩)
  · have notStayed : ¬ (left = false ∧ (s.client c).state = .active ∧ (s.client c).teardown = none) := by
      rintro ⟨stayed, active, noTeardown⟩
      simp [stayed, active, noTeardown] at gone
    refine (takeReport_running running (returnRead_discarded (s := s.quiet) reading notStayed)).trans ?_
    exact congrArg Host.Outcome.next (s.quiet.settleRead_eq c)

open Sys2Proof Sys2Proof.Machine in
/-- Settles O46: the context ends its write, the message goes out, and the oldest record that waits takes the slot after it. -/
theorem writeEndOccupiesTheSlot : Obligations.WriteEndOccupiesTheSlot := by
  intro s c w running writing r p ended message
  have atEnd := takeReport_running running (endWrite_eq (s := s.quiet) writing)
  refine ⟨fun nothing => atEnd.trans ?_, fun rec rest written waiting => atEnd.trans ?_⟩
  · refine congrArg Host.Outcome.next ?_
    split
    · rfl
    · rename_i written
      exact State.startWrite_of_empty _ c ((congrArg _ (State.ring_setRing_self s c _)).trans (nothing.resolve_left written))
  · rw [if_neg (by simp [written])]
    exact congrArg Host.Outcome.next (State.startWrite_ended waiting message)
end

section
/-! PROOFS. Faults on a client ring: the access is settled, the fault offered, the client halted (R145 to R147), and a ring swap
that waited for the failed write is undone (R134). -/

namespace Sys2Proof.Machine

section
variable {s : State} {c : ClientId}

/-! ## The access is settled -/

/-- A released reservation, whether or not anything is written to the client (R124, R126). -/
theorem State.releaseReservation_withRing (s : State) (c : ClientId) : s.releaseReservation c =
    s.withRing c (if (s.client c).muted then (s.ring c).freed else (s.ring c).freed.drained) :=
  State.drain_setRing (s.ring c).freed rfl rfl

/-- The context of a failed write: its record lost, its reservation given back and drained into (R125, R145; log entry 11). -/
def RingContext.writeSettled (silent : Bool) (r : RingContext) : RingContext :=
  { (if silent then r.freed else r.freed.drained) with writing := none }

theorem State.settleWrite_eq {w : WriteInFlight} (writing : (s.ring c).writing = some w) :
    s.settleWrite c = s.setRing c ((s.ring c).writeSettled (s.client c).muted) := by
  have stays : (if (s.client c).muted then (s.ring c).freed else (s.ring c).freed.drained).writing = (s.ring c).writing := by
    split
    · rfl
    · rw [writing]; exact (s.ring c).freed.drained_later.2 w writing
  rw [State.settleWrite, State.releaseReservation_withRing, ← State.setRing_eq_withRing _ _ _ stays, State.setRing_setRing,
    State.ring_setRing_self, RingContext.writeSettled]

/-! ## The client is halted -/

theorem Capture.offer_eq (a : Capture) (f : FaultInfo) : a.offer f = a.offered f := by
  unfold Capture.offer Capture.offered
  cases a.latch with
  | none => rfl
  | some g => rfl

/-- The context without the records that wait behind its write (R127). -/
def RingContext.unqueued (r : RingContext) : RingContext := { r with waiting := [], reserved := r.reserved - r.waiting.length }

/-- The client has been halted by this fault, and nobody told of it yet (R146). -/
def State.faultTaken (s : State) (f : FaultInfo) : State :=
  { s with
    capture := s.capture.offered f, clock := (s.forgetClient f.client).clock,
    clients := s.clients.set f.client (s.client f.client).faulted,
    rings := s.rings.set f.client (s.ring f.client).unqueued }

/-- In an event in which the access was settled in its ring. -/
theorem State.faultTaken_settled {t : State} {f : FaultInfo} {r : RingContext} (rings : t.rings = s.rings.set f.client r) :
    t.faultTaken f = { t with
      capture := t.capture.offered f, clock := (t.forgetClient f.client).clock,
      clients := t.clients.set f.client (t.client f.client).faulted, rings := s.rings.set f.client r.unqueued } := by
  have ring : t.ring f.client = r := by simp [State.ring, rings]
  rw [State.faultTaken, ring, rings, Vector.set_set]

theorem State.clientFault_again {f : FaultInfo} (halted : (s.client f.client).state = .halted) :
    s.clientFault f = { s with capture := s.capture.offered f } := by
  rw [← Capture.offer_eq]; exact if_pos halted

theorem State.clientFault_halts {f : FaultInfo} (live : (s.client f.client).state ≠ .halted) :
    s.clientFault f = (s.faultTaken f).noticedTo 0 (.clientFault f.client f.ring f.kind f.index) := by
  refine (if_neg live).trans ?_
  rw [State.notify_eq, State.haltClient_eq, State.faultTaken, ← Capture.offer_eq]
  rfl

theorem State.client_clientFault_halts {f : FaultInfo} (live : (s.client f.client).state ≠ .halted) :
    (s.clientFault f).client f.client = (s.client f.client).faulted := by
  rw [State.clientFault_halts live, State.client_noticedTo]
  exact s.client_setClient_self _ _

theorem clientReadFault_running {kind : FaultKind} {index : Nat} {left : Bool} (running : s.engine = .running) (target : c ≠ 0)
    (reading : (s.ring c).fetch = .fetching index left) : clientReadFault c kind s =
      (s.quiet.settleRead c).clientFault { client := c, ring := .submission, index := index, kind := kind } := by
  simp only [clientReadFault, reading, if_neg target, running]

theorem clientWriteFault_running {kind : FaultKind} {w : WriteInFlight} (running : s.engine = .running) (target : c ≠ 0)
    (writing : (s.ring c).writing = some w) : clientWriteFault c kind s =
      ((s.quiet.settleWrite c).clientFault { client := c, ring := .completion, index := w.slot, kind := kind }).failSwap c := by
  simp only [clientWriteFault, writing, if_neg target, running]

/-! ## The ring swap that waited -/

theorem State.failSwap_none (noSwap : (s.client c).swap = none) : s.failSwap c = s := by rw [State.failSwap, noSwap]

theorem State.failSwap_one {v : RingSwap} {ref : CommandRef} (swap : (s.client c).swap = some v) (one : v.waiting = [ref]) :
    s.failSwap c = (s.setClient c { s.client c with config := v.old, swap := none }).answeredTo 0
      { status := .clientBusy, tag := ref.tag, index := ref.index, body := .empty } := by
  rw [State.failSwap, swap, ← State.respond_eq]
  simp only [one]
  rfl

/-- What changes at one client and what is told to another keep apart. -/
theorem State.noticedTo_setClient (s : State) {c d : ClientId} (apart : d ≠ c) (v : ClientRecord) (n : Notice) :
    (s.setClient c v).noticedTo d n = (s.noticedTo d n).setClient c v := by
  rw [State.noticedTo, State.client_setClient_of_ne _ _ _ _ apart, State.noticedTo]
  split <;> rfl

end

end Sys2Proof.Machine

open Sys2Proof Sys2Proof.Machine in
/-- Settles O56: the read is settled in its ring, and then the fault is taken as any fault of a client ring. -/
theorem readFaultHaltsTheClient : Obligations.ReadFaultHaltsTheClient := by
  intro s c index left kind running target reading fault settled offered
  have taken : exec (.clientSubmissionReadFault ⟨c, s.epoch⟩ kind) s = .next ((s.quiet.withRing c settled).clientFault fault) := by
    refine (takeReport_current s _).trans ?_
    rw [clientReadFault_running running target reading, State.settleRead_eq]
    rfl
  refine ⟨fun halted => ?_, fun live => ?_⟩
  · rw [taken, State.clientFault_again (by exact halted)]
    rfl
  · rw [taken, State.clientFault_halts (by exact live), State.faultTaken_settled (s := s) rfl]
    rfl

open Sys2Proof Sys2Proof.Machine in
/-- Settles O57: the write is settled in its ring, the fault taken as any fault of a client ring, and then a swap that waited for
the write is undone and answered. -/
theorem writeFaultHaltsTheClient : Obligations.WriteFaultHaltsTheClient := by
  intro s c kind w running target writing fault freed settled offered halted
  have taken : exec (.clientCompletionWriteFault ⟨c, s.epoch⟩ kind) s =
      .next (((s.quiet.setRing c settled).clientFault fault).failSwap c) := by
    refine (takeReport_current s _).trans ?_
    rw [clientWriteFault_running running target writing, State.settleWrite_eq (s := s.quiet) writing]
    rfl
  refine ⟨fun noSwap again => ?_, fun noSwap live => ?_, fun v ref swap one again => ?_, fun v ref swap one live => ?_⟩
  · rw [taken, State.clientFault_again (by exact again), State.failSwap_none (by exact noSwap)]
    rfl
  · have record := State.client_clientFault_halts (s := s.quiet.setRing c settled) (f := fault) (by exact live)
    have stands : (s.client c).faulted = { (s.client c).faulted with swap := none } := by rw [← noSwap]; rfl
    rw [taken, State.failSwap_none (by rw [record]; exact noSwap), State.clientFault_halts (by exact live),
      State.faultTaken_settled (s := s) rfl]
    exact congrArg (fun r => Host.Outcome.next (State.noticedTo { offered with
      clock := (s.forgetClient c).clock, clients := s.clients.set c r, rings := s.rings.set c settled.unqueued } 0
        (.clientFault c .completion kind w.slot))) stands
  · rw [taken, State.clientFault_again (by exact again), State.failSwap_one (by exact swap) one]
    rfl
  · have record := State.client_clientFault_halts (s := s.quiet.setRing c settled) (f := fault) (by exact live)
    rw [taken, State.failSwap_one (by rw [record]; exact swap) one, record, State.clientFault_halts (by exact live),
      ← State.noticedTo_setClient _ target.symm, State.faultTaken_settled (s := s) rfl, State.setClient, Vector.set_set]
    rfl
end

section
/-! PROOFS. The ring swap of a configured client (R134), and RESET_CLIENT and REINSTATE_CLIENT (R109, R137). -/

namespace Sys2Proof.Machine

section
variable {s : State} {c : ClientId}

/-! ## The ring swap -/

/-- The swap with one command to answer (R134). -/
theorem swapRings_one {w : RingSwap} {ref : CommandRef} (swap : (s.client c).swap = some w) (one : w.waiting = [ref])
    (idle : (s.ring c).writing = none) (room : (s.ring c).reserved ≤ w.place.cqSize) :
    swapRings c s = some (((s.setRing c ((s.ring c).swapped w.place)).setClient c { s.client c with swap := none }).answeredTo 0
      { status := .ok, tag := ref.tag, index := ref.index, body := .empty }) := by
  have taken : ¬ ((s.ring c).writing.isSome ∨ w.place.cqSize < (s.ring c).reserved) := by
    rintro (flying | full)
    · rw [idle] at flying; cases flying
    · exact Nat.not_lt.mpr room full
  rw [swapRings, swap, ← State.respond_eq]
  simp only [one, if_neg taken]
  rfl

theorem swapRings_waits {w : RingSwap} (swap : (s.client c).swap = some w)
    (waits : (s.ring c).writing ≠ none ∨ w.place.cqSize < (s.ring c).reserved) : swapRings c s = none := by
  rw [swapRings, swap]
  exact if_pos (waits.imp_left Option.isSome_iff_ne_none.mpr)

/-! ## RESET_CLIENT and REINSTATE_CLIENT -/

theorem resetState_eq {x : ClientState} (configured : x ≠ .unconfigured) :
    resetState x = if x = .halted then .halted else .disabled := by
  cases x with
  | unconfigured => exact absurd rfl configured
  | disabled | active | isolated | recovering | halted => rfl

theorem State.setRecovery_answer {r : Record} (target : c ≠ 0) (v : ClientRecord) (n : Nat) (status : Status) :
    (((s.recordTaken 0).setClient c v).setRecovery c n).answer (s.takenAs 0 r) status =
      ((s.replied 0 r status .empty).setClient c v).setRecovery c n :=
  (State.answer_eq _ _ _ _ _).trans (congrArg (State.setRecovery · c n) (State.answeredTo_setClient _ target.symm _ _))

section
variable {k : Taken} (target : c ≠ 0) (noTeardown : (s.client c).teardown = none)
include target noTeardown

theorem resetTaken_begins (configured : (s.client c).state ≠ .unconfigured) : resetTaken k c s =
    (((s.setClient c { s.client c with
      state := if (s.client c).state = .halted then .halted else .disabled, recoveryPending := false,
      teardown := some { cause := .reset, waiting := some k.ref } }).setRecovery c 0).forgetClient c).dropWaiting c := by
  rw [resetTaken, State.onClient_of_open _ _ target noTeardown, ← resetState_eq configured]
  exact if_neg configured

theorem reinstateTaken_recovers (isolated : (s.client c).state = .isolated) : reinstateTaken k c s =
    ((s.setClient c { s.client c with state := .recovering }).setRecovery c s.limits.recovery).answer k .ok := by
  rw [reinstateTaken, State.onClient_of_open _ _ target noTeardown]
  exact if_neg (not_not.mpr isolated)

end

end

end Sys2Proof.Machine

open Sys2Proof Sys2Proof.Machine in
/-- Settles O52: whatever the client was doing, its new context keeps the reservations and what is left of the fetch. -/
theorem ringSwapGivesAFreshContext : Obligations.RingSwapGivesAFreshContext := by
  intro s c w ref running target swap one swapped
  have replaced (idle : (s.ring c).writing = none) (room : (s.ring c).reserved ≤ w.place.cqSize) :
      swapped (s.ring c).reserved (s.ring c).fetch.abandon :=
    takeEvent_running s _ _ running (swapRings_one (s := s.quiet) swap one idle room)
  refine ⟨fun idle none noRead => ?_, fun idle room => ⟨fun noRead => ?_, fun index left reading => ?_, fun bytes inHand => ?_⟩,
    fun waits => takeEvent_absent s _ (swapRings_waits (s := s.quiet) swap waits)⟩
  · have fresh := replaced idle (none ▸ Nat.zero_le _)
    rwa [none, noRead] at fresh
  · have fresh := replaced idle room
    rwa [noRead] at fresh
  · have fresh := replaced idle room
    rwa [reading] at fresh
  · have fresh := replaced idle room
    rwa [inHand] at fresh

open Sys2Proof Sys2Proof.Machine in
/-- Settles O50: the reset teardown begins with its answer waiting, and a reinstatement is answered at once. -/
theorem resetAndReinstateClient : Obligations.ResetAndReinstateClient := by
  intro s r c hf target noTeardown
  refine ⟨fun ready configured => ?_, fun ready isolated => ?_⟩
  · rw [exec_resetClient ready hf, resetTaken_begins (s := s.recordTaken 0) target noTeardown configured,
      State.dropWaiting, State.ring_forgetClient, State.ring_setRecovery, State.ring_setClient,
      State.ring_recordTaken_of_ne s target]
    rfl
  · rw [exec_reinstateClient ready hf, reinstateTaken_recovers (s := s.recordTaken 0) target noTeardown isolated,
      State.setRecovery_answer target]
    rfl
end

section
/-! PROOFS. The register window: what its writes spell, and what its reads report (11.3, R116, R147, R148, R155). -/

namespace Sys2Proof.Machine

/-! ## What a write spells -/

section
variable {s : State} {offset : BitVec 12} {value : Word}

theorem registerWrite_plain (plain : offset ∉ [(0x004 : BitVec 12), 0x040, 0x088]) (value : Word) :
    Decode.registerWrite offset value = .registerWrite offset value := by
  simp only [List.mem_cons, List.not_mem_nil, or_false, not_or] at plain
  obtain ⟨control, post, clear⟩ := plain
  rw [Decode.registerWrite, if_neg post, if_neg clear, if_neg control]

theorem Registers.write_other (r : Registers) (other : offset ∉ [(0x010 : BitVec 12), 0x014, 0x018, 0x01C, 0x020]) :
    r.write offset value = r := by
  simp only [List.mem_cons, List.not_mem_nil, or_false, not_or] at other
  simp only [Registers.write, other, if_false]

theorem State.registers_unwritten (s : State) (other : offset ∉ [(0x010 : BitVec 12), 0x014, 0x018, 0x01C, 0x020]) :
    (if s.engine = .stopped then { s with regs := s.regs.write offset value } else s) = s := by
  rw [Registers.write_other _ other]
  exact ite_self s

theorem exec_registerWrite : exec (.registerWrite offset value) s = execRegisterWrite offset value s := rfl

/-- A write that spells no other row acts on the control ring registers alone, and only in STOPPED (R155). -/
theorem exec_registerWrite_plain (plain : offset ∉ [(0x004 : BitVec 12), 0x040, 0x088]) :
    exec (.registerWrite offset value) s =
      .next (if s.engine = .stopped then { s with regs := s.regs.write offset value } else s) := by
  rw [exec_registerWrite, execRegisterWrite,
    registerWrite_plain plain]

/-- Such a write is ignored where it finds no control ring register to write (R148, R155). -/
theorem exec_registerWrite_ignored (plain : offset ∉ [(0x004 : BitVec 12), 0x040, 0x088])
    (ignored : s.engine ≠ .stopped ∨ offset ∉ [(0x010 : BitVec 12), 0x014, 0x018, 0x01C, 0x020]) :
    exec (.registerWrite offset value) s = .next s := by
  rw [exec_registerWrite_plain plain]
  rcases ignored with started | other
  · rw [if_neg started]
  · rw [s.registers_unwritten other]

theorem registerWrite_control (value : Word) : Decode.registerWrite 0x004 value =
    if value.getLsbD 1 then .softReset (value.getLsbD 0) else if value.getLsbD 0 then .start
    else .registerWrite 0x004 value := by
  rw [Decode.registerWrite, if_neg (by decide), if_neg (by decide), if_pos (rfl : (0x004 : BitVec 12) = 0x004)]

theorem registerWrite_post (value : Word) : Decode.registerWrite 0x040 value = Decode.postWord value := by
  rw [Decode.registerWrite, if_pos (rfl : (0x040 : BitVec 12) = 0x040)]

theorem registerWrite_clear (value : Word) : Decode.registerWrite 0x088 value = .faultClear value := by
  rw [Decode.registerWrite, if_neg (by decide), if_pos (rfl : (0x088 : BitVec 12) = 0x088)]

/-- The commands that a write of the register window can spell, besides itself (R155). -/
def Spells : Instr → Prop
  | .submit _ _ | .consumed _ _ | .arm _ _ | .start | .softReset _ | .faultClear _ => True
  | _ => False

theorem exec_registerWrite_spelt {i : Instr} (spelt : Decode.registerWrite offset value = i) (spells : Spells i) :
    exec (.registerWrite offset value) s = exec i s := by
  rw [exec_registerWrite, execRegisterWrite, spelt]
  cases i with
  | submit | consumed | arm | start | softReset | faultClear => rfl
  | _ => exact spells.elim

/-- A word at ENGINE CONTROL with neither bit, or of an undefined kind at POST, does nothing (R148, R155). -/
theorem exec_registerWrite_unspelt {i : Instr} (spelt : Decode.registerWrite offset value = i)
    (unspelt : (∃ o v, i = .registerWrite o v) ∨ ∃ c index, i = .postUndefinedKind c index)
    (other : offset ∉ [(0x010 : BitVec 12), 0x014, 0x018, 0x01C, 0x020]) : exec (.registerWrite offset value) s = .next s := by
  rw [exec_registerWrite, execRegisterWrite, spelt]
  rcases unspelt with ⟨o, v, rfl⟩ | ⟨c, index, rfl⟩ <;> exact congrArg Host.Outcome.next (s.registers_unwritten other)

theorem exec_registerWrite_control : exec (.registerWrite 0x004 value) s =
    if value.getLsbD 1 then exec (.softReset (value.getLsbD 0)) s
    else if value.getLsbD 0 then exec .start s
    else .next s := by
  have spelt := registerWrite_control value
  cases reset : value.getLsbD 1 with
  | true =>
    rw [reset, if_pos rfl] at spelt
    rw [exec_registerWrite_spelt spelt trivial, if_pos rfl]
  | false =>
    rw [reset, if_neg Bool.false_ne_true] at spelt
    rw [if_neg Bool.false_ne_true]
    cases start : value.getLsbD 0 with
    | true =>
      rw [start, if_pos rfl] at spelt
      rw [exec_registerWrite_spelt spelt trivial, if_pos rfl]
    | false =>
      rw [start, if_neg Bool.false_ne_true] at spelt
      rw [exec_registerWrite_unspelt spelt (.inl ⟨_, _, rfl⟩) (by decide), if_neg Bool.false_ne_true]

theorem exec_registerWrite_clear : exec (.registerWrite 0x088 value) s = exec (.faultClear value) s :=
  exec_registerWrite_spelt (registerWrite_clear value) trivial

end

/-! ## The POST word -/

section
variable (kind : BitVec 2) (a : BitVec 1) (c : ClientId) (b index : BitVec 12)

/-- The command of each kind of POST word (11.3). -/
def postCommand (kind : BitVec 2) (c : ClientId) (index : BitVec 12) : Instr :=
  if kind = 0 then .submit c index else if kind = 1 then .consumed c index else if kind = 2 then .arm c index
  else .postUndefinedKind c index

theorem postWord_client : (kind ++ a ++ BitVec.ofNat 5 c.val ++ b ++ index : Word).extractLsb' 24 5 = BitVec.ofNat 5 c.val :=
  (BitVec.extractLsb'_append_eq_of_le (by decide)).trans <|
    (BitVec.extractLsb'_append_eq_of_le (by decide)).trans BitVec.extractLsb'_append_eq_right

theorem postWord_index : (kind ++ a ++ BitVec.ofNat 5 c.val ++ b ++ index : Word).extractLsb' 0 12 = index :=
  BitVec.extractLsb'_append_eq_right

theorem postWord_kind : (kind ++ a ++ BitVec.ofNat 5 c.val ++ b ++ index : Word).extractLsb' 30 2 = kind :=
  (BitVec.extractLsb'_append_eq_of_le (by decide)).trans <|
    (BitVec.extractLsb'_append_eq_of_le (by decide)).trans <|
      (BitVec.extractLsb'_append_eq_of_le (by decide)).trans BitVec.extractLsb'_append_eq_left

/-- Bits 29 and 23 to 12 of a POST word are not examined (R155). -/
theorem postWord_append : Decode.postWord (kind ++ a ++ BitVec.ofNat 5 c.val ++ b ++ index : Word) = postCommand kind c index := by
  have client : (BitVec.ofNat 5 c.val).toFin = c := Fin.ext (Nat.mod_eq_of_lt c.isLt)
  have kinds : ∀ k : BitVec 2, k = 0 ∨ k = 1 ∨ k = 2 ∨ k = 3 := by decide
  rw [Decode.postWord, postWord_client, postWord_index, postWord_kind, client]
  rcases kinds kind with rfl | rfl | rfl | rfl <;> rfl

/-- A word at POST is the command that it spells (R155). -/
theorem exec_registerWrite_post (value : Word) (s : State) :
    exec (.registerWrite 0x040 value) s = exec (Decode.postWord value) s := by
  have spelt := registerWrite_post value
  have undefined : ∀ c index, exec (.postUndefinedKind c index) s = .next s := fun _ _ => rfl
  unfold Decode.postWord at spelt ⊢
  extract_lets c index at spelt ⊢
  split
  case h_4 =>
    rw [undefined]
    exact exec_registerWrite_unspelt (spelt.trans (by split <;> trivial)) (.inr ⟨c, index, rfl⟩) (by decide)
  all_goals rename_i kind; rw [kind] at spelt; exact exec_registerWrite_spelt spelt trivial

end

/-! ## What the reads report -/

section
variable (s : State)

theorem toNat_word {n : Nat} (fits : n < 2 ^ 32) : (BitVec.ofNat 32 n).toNat = n := by
  rw [BitVec.toNat_ofNat, Nat.mod_eq_of_lt fits]

theorem faultCode_le (x : FaultKind) : faultCode x ≤ 3 := by cases x <;> decide
theorem ringCode_le (x : RingSide) : ringCode x ≤ 1 := by cases x <;> decide

theorem State.readRegister_unnamed {offset : BitVec 12}
    (unnamed : offset ∉ [(0x000 : BitVec 12), 0x008, 0x010, 0x014, 0x018, 0x01C, 0x020, 0x080, 0x084]) :
    s.readRegister offset = 0 := by
  simp only [List.mem_cons, List.not_mem_nil, or_false, not_or] at unnamed
  simp only [State.readRegister, unnamed, if_false]

/-- ENGINE STATUS: the state and the two causes (11.3). -/
theorem State.readStatus : (s.readRegister 0x008).toNat =
    engineCode s.engine + 2 ^ 4 * haltCode s.haltCause + 2 ^ 8 * startRefusalCode s.startRefusal := by
  have engine : engineCode s.engine ≤ 2 := by cases s.engine <;> decide
  have halt : haltCode s.haltCause ≤ 3 := by cases s.haltCause <;> decide
  have refusal : startRefusalCode s.startRefusal ≤ 1 := by cases s.startRefusal <;> decide
  refine (toNat_word (n := engineCode s.engine + haltCode s.haltCause * 2 ^ 4 + startRefusalCode s.startRefusal * 2 ^ 8)
    (by omega)).trans (by omega)

/-- FAULT CAPTURE with a full latch: the fault, the full bit and the overflow count (R147). -/
theorem captureWord0_full {a : Capture} {f : FaultInfo} (full : a.latch = some f) (counted : a.overflow ≤ 255) :
    (captureWord0 a).toNat =
      2 ^ 31 + 2 ^ 16 * a.overflow + 2 ^ 12 * faultCode f.kind + 2 ^ 8 * ringCode f.ring + f.client.val := by
  have kind := faultCode_le f.kind
  have ring := ringCode_le f.ring
  have client := f.client.isLt
  rw [captureWord0, full, toNat_word] <;> dsimp only <;> omega

theorem captureWord1_full {a : Capture} {f : FaultInfo} (full : a.latch = some f) (index : f.index < 65536) :
    (captureWord1 a).toNat = f.index := by
  rw [captureWord1, full]
  exact (toNat_word (by omega)).trans (Nat.mod_eq_of_lt index)

/-- FAULT CAPTURE with an empty latch reads the overflow count alone (log entry 32). -/
theorem captureWord0_empty {a : Capture} (empty : a.latch = none) (counted : a.overflow ≤ 255) :
    (captureWord0 a).toNat = 2 ^ 16 * a.overflow := by
  rw [captureWord0, empty, toNat_word] <;> dsimp only <;> omega

/-- A control ring register gives back what was written, and no other register reads otherwise than before (11.3). -/
theorem State.readRegister_written {offset : BitVec 12} (value : Word)
    (ring : offset ∈ [(0x010 : BitVec 12), 0x014, 0x018, 0x01C, 0x020]) (other : BitVec 12) :
    ({ s with regs := s.regs.write offset value } : State).readRegister other =
      if other = offset then value else s.readRegister other := by
  simp only [List.mem_cons, List.not_mem_nil, or_false] at ring
  split
  · rename_i same
    rw [same]
    rcases ring with rfl | rfl | rfl | rfl | rfl <;> rfl
  · rename_i differs
    rcases ring with rfl | rfl | rfl | rfl | rfl <;>
      simp only [State.readRegister, Registers.write, differs, if_false] <;> rfl

end

end Sys2Proof.Machine

open Sys2Proof Sys2Proof.Machine in
/-- Settles O60: a write acts as the row that its offset and word spell, and a word of a read is the sum of its fields. -/
theorem registerWindowWrites : Obligations.RegisterWindowWrites := by
  intro s offset value rings overflow
  refine ⟨fun stopped ring => ?_, exec_registerWrite_control, exec_registerWrite_ignored, rfl, exec_registerWrite_clear,
    fun kind a c b index => ?_, s.readRegister_unnamed, rfl, s.readStatus, fun f full counted index => ?_, fun empty counted => ?_⟩
  · have plain : offset ∉ [(0x004 : BitVec 12), 0x040, 0x088] := by revert offset; decide
    refine ⟨_, (exec_registerWrite_plain plain).trans (congrArg _ (if_pos stopped)), rfl, ?_, fun other differs => ?_⟩
    · rw [s.readRegister_written value ring, if_pos rfl]
    · rw [s.readRegister_written value ring, if_neg differs]
  · refine ((exec_registerWrite_post _ s).trans (congrArg (exec · s) (postWord_append kind a c b index))).trans ?_
    unfold postCommand
    split
    · rfl
    · split
      · rfl
      · split <;> rfl
  · exact ⟨captureWord0_full full counted, captureWord1_full full index⟩
  · refine ⟨captureWord0_empty empty counted, ?_⟩
    rw [show s.readRegister 0x084 = captureWord1 s.capture from rfl, captureWord1, empty]
end

section
/-! PROOFS. The frozen block: what the reports of faults do in HALTED, and that every other command is ignored there (R116, R128, R144,
R147, R150). -/

namespace Sys2Proof.Machine

section
variable {s : State} {c : ClientId} {kind : FaultKind}

/-! ## The report of a fault -/

/-- The report of a fault in HALTED reaches the capture and nothing else (R147, R149). -/
theorem offerOnly_eq (s : State) (f : FaultInfo) : offerOnly s f = { s with capture := s.capture.offered f, linkOut := [] } := by
  rw [← Capture.offer_eq]; rfl

theorem clientReadFault_halted (halted : s.engine = .halted) {k : Nat} {left : Bool} (client : c ≠ 0)
    (reading : (s.ring c).fetch = .fetching k left) :
    clientReadFault c kind s = offerOnly s { client := c, ring := .submission, index := k, kind := kind } := by
  simp only [clientReadFault, reading, halted, if_neg client]

theorem clientWriteFault_halted (halted : s.engine = .halted) {w : WriteInFlight} (client : c ≠ 0) (writing : (s.ring c).writing = some w) :
    clientWriteFault c kind s = offerOnly s { client := c, ring := .completion, index := w.slot, kind := kind } := by
  simp only [clientWriteFault, writing, halted, if_neg client]

theorem controlReadFault_halted (halted : s.engine = .halted) {k : Nat} {left : Bool} (reading : (s.ring 0).fetch = .fetching k left) :
    controlReadFault kind s = offerOnly s { client := 0, ring := .submission, index := k, kind := kind } := by
  simp only [controlReadFault, reading, halted]

theorem controlWriteFault_halted (halted : s.engine = .halted) {w : WriteInFlight} (writing : (s.ring 0).writing = some w) :
    controlWriteFault kind s = offerOnly s { client := 0, ring := .completion, index := w.slot, kind := kind } := by
  simp only [controlWriteFault, writing, halted]

/-! ## A report of no access -/

theorem clientReadFault_absent (absent : ¬ (c ≠ 0 ∧ ∃ k left, (s.ring c).fetch = .fetching k left)) : clientReadFault c kind s = s := by
  unfold clientReadFault
  split
  case h_3 k left reading =>
    have control : c = 0 := by_contra fun client => absent ⟨client, k, left, reading⟩
    exact if_pos control
  all_goals rfl

theorem clientWriteFault_absent (absent : ¬ (c ≠ 0 ∧ (s.ring c).writing ≠ none)) : clientWriteFault c kind s = s := by
  unfold clientWriteFault
  split
  case h_1 => rfl
  case h_2 w writing =>
    have control : c = 0 := by_contra fun client => absent ⟨client, fun idle => nomatch writing.symm.trans idle⟩
    exact if_pos control

theorem controlReadFault_absent (absent : ¬ ∃ k left, (s.ring 0).fetch = .fetching k left) : controlReadFault kind s = s := by
  unfold controlReadFault
  split
  case h_3 k left reading => exact absurd ⟨k, left, reading⟩ absent
  all_goals rfl

theorem controlWriteFault_absent (absent : (s.ring 0).writing = none) : controlWriteFault kind s = s := by
  rw [controlWriteFault, absent]

/-- A report is ignored when its access was abandoned by a reset, or is no access in flight (R151). -/
theorem takeReport_ignored {epoch : Epoch} {t : State} (absent : epoch = s.epoch → t = s) : takeReport epoch s (.next t) = .next s := by
  by_cases current : epoch = s.epoch
  · rw [absent current, current, takeReport_current]
  · exact takeReport_abandoned epoch s _ current

/-! ## Commands that are ignored in HALTED -/

theorem exec_lockEvent_frozen (stands : s.engine ≠ .running) {i : Instr} (lock : isLockEvent i = true) : exec i s = .next s := by
  cases i with
  | tickVisitEntry name => exact takeEvent_not_running s _ stands
  | acquire | tryAcquireSet | release | renew | upgrade | downgrade | cancel | forceRelease | queryLock | leaseExpiry | waitExpiry
  | upgradeWaitExpiry | teardownRemoveWaiter | teardownRemoveUpgrade | teardownRevokeHold =>
    exact congrArg Host.Outcome.next (if_neg stands)
  | _ => cases lock

/-- No word at POST moves an engine that is not RUNNING (R116, R155). -/
theorem exec_postWord_frozen (stands : s.engine ≠ .running) (value : Word) : exec (Decode.postWord value) s = .next s := by
  unfold Decode.postWord
  extract_lets c index
  split
  case h_4 => rfl
  all_goals exact takeEvent_postDropped (.inl stands) _

/-- In HALTED a write of the register window that is no reset and not FAULT CLEAR is ignored (R148, R155). -/
theorem exec_registerWrite_frozen (halted : s.engine = .halted) {offset : BitVec 12} {value : Word}
    (noReset : offset = 0x004 → value.getLsbD 1 ≠ true) (noClear : offset ≠ 0x088) :
    exec (.registerWrite offset value) s = .next s := by
  have stands : s.engine ≠ .running := by rw [halted]; decide
  have started : s.engine ≠ .stopped := by rw [halted]; decide
  by_cases control : offset = 0x004
  · rw [control, exec_registerWrite_control, if_neg (noReset control)]
    split
    · exact congrArg Host.Outcome.next (startEngine_ignored started)
    · rfl
  by_cases post : offset = 0x040
  · rw [post, exec_registerWrite_post, exec_postWord_frozen stands]
  · exact exec_registerWrite_ignored (by simp only [List.mem_cons, List.not_mem_nil, or_false, not_or]; exact ⟨control, post, noClear⟩) (.inl started)

end

end Sys2Proof.Machine

open Sys2Proof Sys2Proof.Machine in
/-- Settles O5: in HALTED no event is taken, a START and a word of any ring are ignored, and only a reset, FAULT CLEAR and the report
of a fault of an access in flight have an effect. -/
theorem haltedEngineIsFrozen : Obligations.HaltedEngineIsFrozen := by
  intro s halted cleared offered reads resets clears reports
  have stands : s.engine ≠ .running := by rw [halted]; decide
  have started : s.engine ≠ .stopped := by rw [halted]; decide
  refine ⟨?_, ?_, ?_, ?_, ?_, ?_⟩
  · rintro i ⟨value, rfl | rfl⟩
    · rfl
    · exact exec_registerWrite_clear
  · rintro c kind k client ⟨left, reading⟩
    exact (takeReport_current s _).trans (congrArg _ ((clientReadFault_halted halted client reading).trans (offerOnly_eq s _)))
  · intro c kind w client writing
    exact (takeReport_current s _).trans (congrArg _ ((clientWriteFault_halted halted client writing).trans (offerOnly_eq s _)))
  · rintro kind k ⟨left, reading⟩
    exact (takeReport_current s _).trans (congrArg _ ((controlReadFault_halted halted reading).trans (offerOnly_eq s _)))
  · intro kind w writing
    exact (takeReport_current s _).trans (congrArg _ ((controlWriteFault_halted halted writing).trans (offerOnly_eq s _)))
  intro i noReset noClear noReport
  rcases lock : isLockEvent i with _ | _
  case true => exact exec_lockEvent_frozen stands lock
  cases i with
  | softReset b => exact absurd (.inl ⟨b, rfl⟩) noReset
  | powerOn => exact absurd (.inr (.inl rfl)) noReset
  | hostLinkReset => exact absurd (.inr (.inr (.inl rfl))) noReset
  | faultClear value => exact absurd ⟨value, .inl rfl⟩ noClear
  | registerWrite offset value =>
    exact exec_registerWrite_frozen halted
      (fun control set => noReset (.inr (.inr (.inr ⟨value, congrArg (Instr.registerWrite · value) control, set⟩))))
      (fun clear => noClear ⟨value, .inr (congrArg (Instr.registerWrite · value) clear)⟩)
  | start => exact congrArg Host.Outcome.next (startEngine_ignored started)
  | postUndefinedKind c index => rfl
  | clientSubmissionReadFault access kind =>
    obtain ⟨c, epoch⟩ := access
    refine takeReport_ignored fun current => clientReadFault_absent fun ⟨client, k, left, reading⟩ => noReport ?_
    subst current
    exact .inl ⟨c, kind, rfl, client, k, left, reading⟩
  | clientCompletionWriteFault access kind =>
    obtain ⟨c, epoch⟩ := access
    refine takeReport_ignored fun current => clientWriteFault_absent fun ⟨client, writing⟩ => noReport ?_
    subst current
    exact .inr (.inl ⟨c, kind, rfl, client, writing⟩)
  | controlReadFault failure =>
    obtain ⟨kind, epoch⟩ := failure
    refine takeReport_ignored fun current => controlReadFault_absent fun reading => noReport ?_
    subst current
    exact .inr (.inr (.inl ⟨kind, rfl, reading⟩))
  | controlWriteFault failure =>
    obtain ⟨kind, epoch⟩ := failure
    refine takeReport_ignored fun current => controlWriteFault_absent (by_contra fun writing => noReport ?_)
    subst current
    exact .inr (.inr (.inr ⟨kind, rfl, writing⟩))
  | fetchReadReturn access bytes =>
    rw [show exec (.fetchReadReturn access bytes) s = takeReport access.epoch s (takeEvent s (returnRead access.client bytes)) from rfl,
      takeEvent_not_running s _ stands]
    exact takeReport_ignored fun _ => rfl
  | completionWriteEnd access =>
    rw [show exec (.completionWriteEnd access) s = takeReport access.epoch s (takeEvent s (endWrite access.client)) from rfl,
      takeEvent_not_running s _ stands]
    exact takeReport_ignored fun _ => rfl
  | submit | consumed | arm | watch | unwatch | nop | configureClient | configureClientRingSwap | enableClient | disableClient
  | resetClient | reinstateClient | setStanding | queryClient | setTimebase | setLimits | fetchGrant | tick | owedTickSweep
  | recoveryVisit | recoveryComplete | standingCharge | standingCredit | teardownRemoveWatches | teardownEnd | watchEventMatch
  | unknownOpcode => exact congrArg Host.Outcome.next (if_neg stands)
  | _ => cases lock
end

section
/-! PROOFS. The checks of intake: the ranges on a record's bytes, the refusals, and the records that the Queue Unit answers itself (R122,
R123, R153). -/

namespace Sys2Proof.Machine

/-! ## The fields of a record and its bytes -/

section
variable {r : Record}

theorem nameField_of_ne {off : Nat} (named : bytesOf r off 4 ≠ 0) : Decode.nameField r off = some (Decode.field r off 4) := by
  rw [bytesOf_eq_fieldNat] at named
  have nonzero : (Decode.field r off 4 : Name) ≠ 0 := fun zero => named (congrArg BitVec.toNat zero)
  exact if_neg nonzero

theorem nameField_of_zero {off : Nat} (zero : bytesOf r off 4 = 0) : Decode.nameField r off = none := by
  rw [bytesOf_eq_fieldNat] at zero
  have isZero : (Decode.field r off 4 : Name) = 0 := BitVec.eq_of_toNat_eq zero
  exact if_pos isZero

theorem clientField_of_le (listed : bytesOf r 8 1 ≤ 31) : ∃ c, Decode.clientField r = some c := by
  rw [bytesOf_eq_fieldNat] at listed
  exact ⟨_, dif_pos (Nat.lt_succ_of_le listed)⟩

theorem clientField_of_not_le (unlisted : ¬ bytesOf r 8 1 ≤ 31) : Decode.clientField r = none := by
  rw [bytesOf_eq_fieldNat] at unlisted
  exact dif_neg fun below => unlisted (Nat.le_of_lt_succ below)

theorem modeOfNat_of_le {n : Nat} (mode : n ≤ 1) : ∃ m, Decode.modeOfNat n = some m := by
  interval_cases n
  · exact ⟨.shared, rfl⟩
  · exact ⟨.exclusive, rfl⟩

theorem modeOfNat_of_not_le {n : Nat} (noMode : ¬ n ≤ 1) : Decode.modeOfNat n = none := by
  match n with
  | 0 | 1 => omega
  | n + 2 => rfl

/-- The positions of a set read in order, when each names a lock (R153). -/
theorem setPositions_of_ne (n : Nat) : ∀ p, (∀ k, k < n → bytesOf r (16 + 4 * (p + k)) 4 ≠ 0) →
    ∃ ps, Decode.setPositions r p n = some ps ∧
      ps.map Prod.fst = (List.range n).map (fun k => (Decode.field r (16 + 4 * (p + k)) 4 : Name)) := by
  induction n with
  | zero => exact fun p _ => ⟨[], rfl, rfl⟩
  | succ n ih =>
    intro p named
    have later : ∀ k, p + 1 + k = p + (k + 1) := fun k => by omega
    obtain ⟨ps, rest, names⟩ := ih (p + 1) fun k below => by rw [later]; exact named (k + 1) (by omega)
    have first : bytesOf r (16 + 4 * p) 4 ≠ 0 := named 0 n.succ_pos
    refine ⟨_, by rw [Decode.setPositions, nameField_of_ne first, rest], ?_⟩
    rw [List.range_succ_eq_map, List.map_cons, List.map_cons, names, List.map_map]
    simp only [later]
    rfl

theorem setPositions_of_zero (n : Nat) : ∀ p, (∃ k, k < n ∧ bytesOf r (16 + 4 * (p + k)) 4 = 0) →
    Decode.setPositions r p n = none := by
  induction n with
  | zero => exact fun p ⟨_, below, _⟩ => absurd below (Nat.not_lt_zero _)
  | succ n ih =>
    rintro p ⟨k, below, zero⟩
    rw [Decode.setPositions]
    cases k with
    | zero =>
      have first : bytesOf r (16 + 4 * p) 4 = 0 := zero
      rw [nameField_of_zero first]
    | succ k =>
      rw [ih (p + 1) ⟨k, by omega, by rwa [show p + 1 + k = p + (k + 1) by omega]⟩]
      split
      · contradiction
      · rfl

end

/-! ## What each kind of record reads -/

/-- A reader of a kind of record answers fields exactly for the bytes in range, and their names are those that the window judges. -/
structure Reads {α : Type} (op : Decode.Opcode) (r : Record) (read : Record → Option α) (names : α → List Name) : Prop where
  fields : inRange r op = true → ∃ f, read r = some f ∧ names f = windowNames r op
  outOfRange : inRange r op = false → read r = none

section
variable {r : Record} {α : Type} {op : Decode.Opcode} {read : Record → Option α} {names : α → List Name}

theorem Reads.of_range {P : Prop} [Decidable P] (range : inRange r op = decide P)
    (fields : P → ∃ f, read r = some f ∧ names f = windowNames r op) (none : ¬ P → read r = none) : Reads op r read names :=
  ⟨fun h => fields (of_decide_eq_true (range ▸ h)), fun h => none (of_decide_eq_false (range ▸ h))⟩

/-- A kind that holds a lock name and no other field with a range. -/
theorem Reads.of_name {f : α} (range : inRange r op = decide (bytesOf r 8 4 ≠ 0)) (some : bytesOf r 8 4 ≠ 0 → read r = some f)
    (none : Decode.nameField r 8 = none → read r = none) (judged : names f = windowNames r op) : Reads op r read names :=
  .of_range range (fun named => ⟨f, some named, judged⟩) (fun zero => none (nameField_of_zero (not_not.mp zero)))

/-- A kind that holds a client and no other field with a range. -/
theorem Reads.of_client (range : inRange r op = decide (bytesOf r 8 1 ≤ 31))
    (some : ∀ c, Decode.clientField r = some c → ∃ f, read r = some f) (none : Decode.clientField r = none → read r = none)
    (unjudged : windowNames r op = []) : Reads op r read noNames :=
  .of_range range
    (fun listed => let ⟨c, target⟩ := clientField_of_le listed; let ⟨f, fields⟩ := some c target; ⟨f, fields, unjudged.symm⟩)
    (fun unlisted => none (clientField_of_not_le unlisted))

theorem reads_client (range : inRange r op = decide (bytesOf r 8 1 ≤ 31)) (unjudged : windowNames r op = []) :
    Reads op r Decode.clientField noNames :=
  .of_client range (fun c target => ⟨c, target⟩) id unjudged

theorem reads_hold {names : Decode.HoldFields → List Name} (range : inRange r op = decide (bytesOf r 8 4 ≠ 0))
    (judged : names { name := Decode.field r 8 4, token := Decode.field r 12 8 } = windowNames r op) :
    Reads op r Decode.holdFields names :=
  .of_name range holdFields_of_bytes (fun none => by rw [Decode.holdFields, none]) judged

theorem reads_renew : Reads .renew r Decode.renewFields (fun f => [f.name]) :=
  .of_name rfl renewFields_of_bytes (fun none => by rw [Decode.renewFields, none]) rfl

theorem reads_upgrade : Reads .upgrade r Decode.upgradeFields (fun f => [f.name]) :=
  .of_name rfl upgradeFields_of_bytes (fun none => by rw [Decode.upgradeFields, none]) rfl

theorem reads_queryLock : Reads .queryLock r Decode.queryName noNames :=
  .of_name rfl nameField_of_ne id rfl

theorem reads_standing : Reads .setStanding r Decode.standingFields noNames :=
  .of_client rfl (fun c target => ⟨_, by rw [Decode.standingFields, target]⟩) (fun none => by rw [Decode.standingFields, none]) rfl

theorem reads_target (range : inRange r op = true) (unjudged : windowNames r op = []) : Reads op r Decode.targetTag noNames :=
  ⟨fun _ => ⟨_, rfl, unjudged.symm⟩, fun out => nomatch range.symm.trans out⟩

theorem reads_nop : Reads .nop r Decode.nopFields noNames := ⟨fun _ => ⟨(), rfl, rfl⟩, nofun⟩

theorem reads_acquire : Reads .acquire r Decode.acquireFields (fun f => [f.name]) := by
  refine .of_range (P := bytesOf r 8 4 ≠ 0 ∧ bytesOf r 12 1 ≤ 1 ∧ bytesOf r 13 1 ≤ 7) rfl ?_ ?_
  · rintro ⟨named, mode, priority⟩
    rw [bytesOf_eq_fieldNat] at mode priority
    obtain ⟨m, mode⟩ := modeOfNat_of_le mode
    refine ⟨_, by rw [Decode.acquireFields, nameField_of_ne named, mode]; exact if_pos priority, rfl⟩
  · intro out
    by_cases named : bytesOf r 8 4 ≠ 0
    case neg => rw [Decode.acquireFields, nameField_of_zero (not_not.mp named)]
    by_cases mode : bytesOf r 12 1 ≤ 1
    case neg =>
      rw [bytesOf_eq_fieldNat] at mode
      rw [Decode.acquireFields, nameField_of_ne named, modeOfNat_of_not_le mode]
    have priority : ¬ bytesOf r 13 1 ≤ 7 := fun priority => out ⟨named, mode, priority⟩
    rw [bytesOf_eq_fieldNat] at mode priority
    obtain ⟨m, mode⟩ := modeOfNat_of_le mode
    rw [Decode.acquireFields, nameField_of_ne named, mode]
    exact if_neg priority

theorem reads_set : Reads .tryAcquireSet r Decode.setFields (fun f => f.positions.map Prod.fst) := by
  refine .of_range (P := 1 ≤ bytesOf r 8 1 ∧ bytesOf r 8 1 ≤ 8 ∧ ∀ p, p < bytesOf r 8 1 → bytesOf r (16 + 4 * p) 4 ≠ 0) rfl ?_ ?_
  · rintro ⟨one, eight, named⟩
    rw [bytesOf_eq_fieldNat r 8 1] at one eight named
    obtain ⟨ps, positions, names⟩ := setPositions_of_ne (r := r) (Decode.fieldNat r 8 1) 0 (by simpa only [Nat.zero_add] using named)
    simp only [Nat.zero_add] at names
    exact ⟨_, by rw [Decode.setFields, if_pos ⟨one, eight⟩, positions], names⟩
  · intro out
    rw [bytesOf_eq_fieldNat r 8 1] at out
    rw [Decode.setFields]
    split
    case isFalse => rfl
    case isTrue count =>
      have unnamed : ∃ p, p < Decode.fieldNat r 8 1 ∧ bytesOf r (16 + 4 * (0 + p)) 4 = 0 := by
        by_contra none
        refine out ⟨count.1, count.2, fun p below zero => none ⟨p, below, ?_⟩⟩
        rwa [Nat.zero_add]
      rw [setPositions_of_zero _ 0 unnamed]

theorem reads_watch : Reads .watch r Decode.watchFields noNames := by
  refine .of_range (P := 1 ≤ bytesOf r 16 1 ∧ bytesOf r 16 1 ≤ 31) rfl ?_ ?_ <;> rw [bytesOf_eq_fieldNat]
  · exact fun events => ⟨_, if_pos events, rfl⟩
  · exact fun events => if_neg events

theorem reads_configure : Reads .configureClient r Decode.configureFields noNames := by
  refine .of_range (P := bytesOf r 8 1 ≤ 31 ∧ bytesOf r 9 1 ≤ 31) rfl ?_ ?_
  · rintro ⟨listed, vector⟩
    rw [bytesOf_eq_fieldNat] at vector
    obtain ⟨c, target⟩ := clientField_of_le listed
    exact ⟨_, by rw [Decode.configureFields, target]; exact if_pos vector, rfl⟩
  · intro out
    by_cases listed : bytesOf r 8 1 ≤ 31
    case neg => rw [Decode.configureFields, clientField_of_not_le listed]
    have vector : ¬ bytesOf r 9 1 ≤ 31 := fun vector => out ⟨listed, vector⟩
    rw [bytesOf_eq_fieldNat] at vector
    obtain ⟨c, target⟩ := clientField_of_le listed
    rw [Decode.configureFields, target]
    exact if_neg vector

theorem reads_period : Reads .setTimebase r Decode.periodField noNames := by
  refine .of_range (P := 1 ≤ bytesOf r 8 2) rfl ?_ ?_ <;> rw [bytesOf_eq_fieldNat]
  · exact fun period => ⟨_, if_neg (Nat.ne_of_gt period), rfl⟩
  · exact fun zero => if_pos (Nat.lt_one_iff.mp (Nat.lt_of_not_le zero))

theorem reads_limits : Reads .setLimits r Decode.limitFields noNames := by
  refine .of_range (P := 1 ≤ bytesOf r 10 2 ∧ 1 ≤ bytesOf r 12 2 ∧ 1 ≤ bytesOf r 14 2 ∧ bytesOf r 14 2 ≤ 65534) rfl ?_ ?_ <;>
    simp only [bytesOf_eq_fieldNat]
  · exact fun ⟨recovery, leaseCap, waitCap, limited⟩ => ⟨_, if_neg (by omega), rfl⟩
  · have fits : Decode.fieldNat r 14 2 < 65536 := by rw [← bytesOf_eq_fieldNat]; exact Nat.mod_lt _ (by decide)
    exact fun out => if_pos (by omega)

/-! ## The three refusals -/

variable {s : State} {q : ClientId}

theorem Reads.intakeCheck_range (h : Reads op r read names) (out : inRange r op = false) :
    intakeCheck s q op (read r) names = .refused .badRequest 2 := by
  rw [h.outOfRange out]; rfl

theorem Reads.intakeCheck_privilege (h : Reads op r read names) (range : inRange r op = true) (command : op.isCommand = true)
    (client : q ≠ 0) : intakeCheck s q op (read r) names = .refused .privilege 8 := by
  obtain ⟨f, fields, -⟩ := h.fields range
  rw [fields]
  exact if_pos ⟨command, client⟩

theorem Reads.intakeCheck_window (h : Reads op r read names) (range : inRange r op = true)
    (privileged : op.isCommand = true → q = 0) (denied : ¬ s.windowAdmits q (windowNames r op)) :
    intakeCheck s q op (read r) names = .refused .nameDenied 4 := by
  obtain ⟨f, fields, judged⟩ := h.fields range
  rw [fields]
  rw [← judged, ← all_admits_iff] at denied
  exact (if_neg fun ⟨command, client⟩ => client (privileged command)).trans (if_neg denied)

/-- A refusal at intake is the record's one response, beside the charge (R122). -/
theorem State.refuseAtIntake_eq (s : State) (q : ClientId) (r : Record) (status : Status) (charge : Nat) :
    s.quiet.refuseAtIntake (s.takenAs q r) status charge = (s.replied q r status .empty).charged q charge :=
  State.answer_eq _ _ _ _ _

theorem takeEvent_refused {adjust : Limits → α → α} {owner : Taken → α → State → State} {status : Status} {charge : Nat}
    (ready : Ready s q op r) (refused : intakeCheck s q op (read r) names = .refused status charge) :
    takeEvent s (fun s1 => s1.takeRecord q op read names adjust owner) = .next ((s.replied q r status .empty).charged q charge) := by
  refine takeEvent_running _ _ _ ready.running ?_
  rw [State.takeRecord_refused s.quiet q op r read names adjust owner status charge ready.inHand ready.decoded refused,
    State.takenAs_quiet, State.refuseAtIntake_eq]

theorem takeLockEvent_refused {adjust : Limits → α → α} {owner : Taken → α → State → State} {status : Status} {charge : Nat}
    (ready : Ready s q op r) (refused : intakeCheck s q op (read r) names = .refused status charge) :
    takeLockEvent s (fun s1 => s1.takeRecord q op read names adjust owner) =
      .next ((s.replied q r status .empty).charged q charge) := by
  have taken := State.takeRecord_refused s.quiet.openBatch q op r read names adjust owner status charge ready.inHand ready.decoded
    refused
  have answered : s.quiet.openBatch.refuseAtIntake (s.takenAs q r) status charge =
      ((s.recordTaken q).charged q charge).openBatch.alsoReplied s q r status .empty := State.answer_eq _ _ _ _ _
  rw [State.takenAs_openBatch, State.takenAs_quiet, answered] at taken
  have tokens : (((s.recordTaken q).charged q charge).openBatch.alsoReplied s q r status .empty).nextToken ≤ 2 ^ 64 := by
    rw [State.alsoReplied, State.nextToken_answeredTo]
    exact ready.tokens
  have run := takeLockEvent_running s _ (fun s1 => s1.takeRecord q op read names adjust owner) ready.running taken tokens
  rw [State.closeBatch_alsoReplied] at run
  exact run

/-- The outcome of a record is that of the checks of intake, in their order, as far as they refuse it (R122). -/
def RefusedInOrder (s : State) (q : ClientId) (op : Decode.Opcode) (r : Record) (o : Host.Outcome State Fault Refusal) : Prop :=
  (inRange r op = false → o = .next ((s.replied q r .badRequest .empty).charged q 2)) ∧
  (inRange r op = true → op.isCommand = true → q ≠ 0 → o = .next ((s.replied q r .privilege .empty).charged q 8)) ∧
  (inRange r op = true → (op.isCommand = true → q = 0) → ¬ s.windowAdmits q (windowNames r op) →
    o = .next ((s.replied q r .nameDenied .empty).charged q 4))

theorem Reads.refusedInOrder {o : Host.Outcome State Fault Refusal} (h : Reads op r read names)
    (refused : ∀ status charge, intakeCheck s q op (read r) names = .refused status charge →
      o = .next ((s.replied q r status .empty).charged q charge)) : RefusedInOrder s q op r o :=
  ⟨fun out => refused _ _ (h.intakeCheck_range out),
    fun range command client => refused _ _ (h.intakeCheck_privilege range command client),
    fun range privileged denied => refused _ _ (h.intakeCheck_window range privileged denied)⟩

theorem Reads.event {adjust : Limits → α → α} {owner : Taken → α → State → State} (h : Reads op r read names)
    (ready : Ready s q op r) : RefusedInOrder s q op r (takeEvent s (fun s1 => s1.takeRecord q op read names adjust owner)) :=
  h.refusedInOrder fun _ _ => takeEvent_refused ready

theorem Reads.lockEvent {adjust : Limits → α → α} {owner : Taken → α → State → State} (h : Reads op r read names)
    (ready : Ready s q op r) : RefusedInOrder s q op r (takeLockEvent s (fun s1 => s1.takeRecord q op read names adjust owner)) :=
  h.refusedInOrder fun _ _ => takeLockEvent_refused ready

/-! ## A byte 0 outside the table -/

/-- No opcode is read from a byte 0 outside 11.1 (R153). -/
theorem opcode_unknown (notRequest : ¬ (0x01 ≤ bytesOf r 0 1 ∧ bytesOf r 0 1 ≤ 0x0A))
    (notCommand : ¬ (0x40 ≤ bytesOf r 0 1 ∧ bytesOf r 0 1 ≤ 0x4A)) : Decode.opcode r = none := by
  cases known : Decode.opcode r with
  | none => rfl
  | some op =>
    rw [opcode_eq_some_iff] at known
    cases op <;> simp [known, opcodeByte] at notRequest notCommand

theorem exec_unknownOpcode (running : s.engine = .running) (hand : (s.ring q).fetch = .inHand r) (unknown : Decode.opcode r = none) :
    exec (.unknownOpcode q) s = .next ((s.replied q r .badRequest .empty).charged q 2) := by
  have refused : refuseUnknown q s.quiet = some (s.quiet.refuseAtIntake (s.takenAs q r) .badRequest 2) := by
    rw [refuseUnknown, show (s.quiet.ring q).fetch = .inHand r from hand]
    exact if_pos unknown
  rw [State.refuseAtIntake_eq] at refused
  exact takeEvent_running s _ _ running refused

theorem exec_nop (running : s.engine = .running) (hand : (s.ring q).fetch = .inHand r) (opcode : bytesOf r 0 1 = 0x0A) :
    exec (.nop q) s = .next (s.replied q r .ok .empty) := by
  have taken := State.takeRecord_passed s.quiet q .nop r Decode.nopFields noNames noAdjust nopTaken () hand
    ((opcode_eq_some_iff r .nop).mpr opcode) rfl (fun command => nomatch command.1) rfl
  have run := takeEvent_running s _ (fun s1 => s1.takeRecord q .nop Decode.nopFields noNames noAdjust nopTaken) running taken
  exact run.trans (congrArg Host.Outcome.next (s.recordTaken_answer q r .ok))

end

end Sys2Proof.Machine

open Sys2Proof Sys2Proof.Machine in
/-- Settles O11: the reader of each kind answers fields exactly for the bytes in range, and intake refuses by its three checks in order. -/
theorem intakeRefusalsInOrder : Obligations.IntakeRefusalsInOrder := by
  intro op q s r ready
  cases op with
  | acquire => exact reads_acquire.lockEvent ready
  | tryAcquireSet => exact reads_set.lockEvent ready
  | release => exact (reads_hold rfl rfl).lockEvent ready
  | renew => exact reads_renew.lockEvent ready
  | upgrade => exact reads_upgrade.lockEvent ready
  | downgrade => exact (reads_hold rfl rfl).lockEvent ready
  | cancel => exact (reads_target rfl rfl).lockEvent ready
  | watch => exact reads_watch.event ready
  | unwatch => exact (reads_target rfl rfl).event ready
  | nop => exact reads_nop.event ready
  | configureClient => exact reads_configure.event ready
  | enableClient => exact (reads_client rfl rfl).event ready
  | disableClient => exact (reads_client rfl rfl).event ready
  | resetClient => exact (reads_client rfl rfl).event ready
  | reinstateClient => exact (reads_client rfl rfl).event ready
  | setStanding => exact reads_standing.event ready
  | forceRelease => exact (reads_hold rfl rfl).lockEvent ready
  | queryLock => exact reads_queryLock.lockEvent ready
  | queryClient => exact (reads_client rfl rfl).event ready
  | setTimebase => exact reads_period.event ready
  | setLimits => exact reads_limits.event ready

open Sys2Proof Sys2Proof.Machine in
/-- Settles O12: a byte 0 outside the table reads as no opcode and fails check 1, and a NOP passes every check. -/
theorem nopAndUnknownOpcode : Obligations.NopAndUnknownOpcode := by
  intro q s r running hand
  exact ⟨fun notRequest notCommand => exec_unknownOpcode running hand (opcode_unknown notRequest notCommand),
    exec_nop running hand⟩
end

section
/-! PROOFS. The bytes of a completion record: what a record of fields that stand apart says, and the fields of each record (11.2, R154). -/

namespace Sys2Proof.Machine

/-! ## Fields that stand apart -/

/-- The byte offset, the length and the value of a field of a record. -/
abbrev PackedField := Nat × Nat × Nat

/-- Two fields share no byte. -/
abbrev PackedField.Apart (f g : PackedField) : Prop := f.1 + f.2.1 ≤ g.1 ∨ g.1 + g.2.1 ≤ f.1

/-- The fields of a record share no byte, lie in its 32 bytes, and hold their values. -/
structure Laid (gs : List PackedField) : Prop where
  apart : gs.Pairwise PackedField.Apart
  inside : ∀ g ∈ gs, g.1 + g.2.1 ≤ 32
  fits : ∀ g ∈ gs, g.2.2 < 256 ^ g.2.1

/-- Bit `i` of a record is a set bit of this field. -/
def PackedField.SetsBit (g : PackedField) (i : Nat) : Prop := 8 * g.1 ≤ i ∧ g.2.2.testBit (i - 8 * g.1) = true

theorem PackedField.SetsBit.covered {g : PackedField} {i : Nat} (h : g.SetsBit i) (fits : g.2.2 < 256 ^ g.2.1) :
    i < 8 * (g.1 + g.2.1) := by
  obtain ⟨start, set⟩ := h
  have low := (Nat.ge_two_pow_of_testBit set).trans_lt fits
  rw [show 256 = 2 ^ 8 from rfl, ← pow_mul] at low
  have := (Nat.pow_lt_pow_iff_right (by decide)).mp low
  omega

theorem PackedField.Apart.not_both {f g : PackedField} {i : Nat} (apart : f.Apart g) (ff : f.2.2 < 256 ^ f.2.1)
    (fg : g.2.2 < 256 ^ g.2.1) (hf : f.SetsBit i) : ¬ g.SetsBit i := by
  intro hg
  have endF := hf.covered ff
  have endG := hg.covered fg
  obtain ⟨startF, -⟩ := hf
  obtain ⟨startG, -⟩ := hg
  rcases apart with h | h <;> omega

/-- A field alone, in its place. -/
theorem getLsbD_field (g : PackedField) (fits : g.2.2 < 256 ^ g.2.1) (i : Nat) :
    (BitVec.ofNat 256 (g.2.2 % 2 ^ (8 * g.2.1) * 2 ^ (8 * g.1))).getLsbD i = true ↔ i < 256 ∧ g.SetsBit i := by
  have whole : g.2.2 % 2 ^ (8 * g.2.1) = g.2.2 := Nat.mod_eq_of_lt (by rwa [pow_mul])
  rw [whole, BitVec.getLsbD_ofNat, Nat.testBit_mul_two_pow]
  simp only [PackedField.SetsBit, Bool.and_eq_true, decide_eq_true_eq]

/-- The bits of a record are those of its fields. -/
theorem getLsbD_packFields {gs : List PackedField} (apart : gs.Pairwise PackedField.Apart)
    (fits : ∀ g ∈ gs, g.2.2 < 256 ^ g.2.1) (i : Nat) :
    (BitVec.ofNat 256 (packFields gs)).getLsbD i = true ↔ i < 256 ∧ ∃ g ∈ gs, g.SetsBit i := by
  induction gs generalizing i with
  | nil => simp [packFields]
  | cons g gs ih =>
    obtain ⟨first, rest⟩ := List.pairwise_cons.mp apart
    obtain ⟨fit, fits⟩ := List.forall_mem_cons.mp fits
    have disjoint : BitVec.ofNat 256 (g.2.2 % 2 ^ (8 * g.2.1) * 2 ^ (8 * g.1)) &&& BitVec.ofNat 256 (packFields gs) = 0#256 := by
      refine BitVec.eq_of_getLsbD_eq fun j _ => ?_
      rw [BitVec.getLsbD_and, BitVec.getLsbD_zero, Bool.and_eq_false_imp]
      intro mine
      rw [← Bool.not_eq_true, ih rest fits]
      rintro ⟨-, h, mem, sets⟩
      exact (first h mem).not_both fit (fits h mem) ((getLsbD_field g fit j).mp mine).2 sets
    rw [show packFields (g :: gs) = g.2.2 % 2 ^ (8 * g.2.1) * 2 ^ (8 * g.1) + packFields gs from rfl, BitVec.ofNat_add,
      BitVec.add_eq_or_of_and_eq_zero _ _ disjoint, BitVec.getLsbD_or, Bool.or_eq_true, getLsbD_field g fit, ih rest fits,
      List.exists_mem_cons_iff, ← and_or_left]

/-- Bit `i` of a field read from the record. -/
theorem testBit_read (b : CompletionBytes) (off len i : Nat) :
    (b.toNat / 256 ^ off % 256 ^ len).testBit i = (decide (i < 8 * len) && b.getLsbD (8 * off + i)) := by
  have bits : ∀ n, 256 ^ n = 2 ^ (8 * n) := fun n => (pow_mul 2 8 n).symm
  rw [bits, bits, Nat.testBit_mod_two_pow, Nat.testBit_div_two_pow, BitVec.testBit_toNat,
    Nat.add_comm]

theorem Laid.reads {gs : List PackedField} (laid : Laid gs) {g : PackedField} (mem : g ∈ gs) :
    (BitVec.ofNat 256 (packFields gs)).toNat / 256 ^ g.1 % 256 ^ g.2.1 = g.2.2 := by
  have inside := laid.inside g mem
  have fit := laid.fits g mem
  refine Nat.eq_of_testBit_eq fun i => Bool.eq_iff_iff.mpr ?_
  rw [testBit_read, Bool.and_eq_true, decide_eq_true_eq, getLsbD_packFields laid.apart laid.fits]
  have mine : g.SetsBit (8 * g.1 + i) ↔ g.2.2.testBit i = true := by simp [PackedField.SetsBit]
  rw [← mine]
  constructor
  · rintro ⟨low, -, h, memH, sets⟩
    by_cases same : h = g
    · exact same ▸ sets
    · have covered := sets.covered (laid.fits h memH)
      obtain ⟨start, -⟩ := sets
      have symm : Std.Symm PackedField.Apart := ⟨fun _ _ => Or.symm⟩
      have apart : h.Apart g := laid.apart.forall memH mem same
      rcases apart with h | h <;> omega
  · intro sets
    have := sets.covered fit
    exact ⟨by omega, by omega, g, mem, sets⟩

theorem Laid.zero {gs : List PackedField} (laid : Laid gs) {k : Nat} (uncovered : ∀ g ∈ gs, ¬ (g.1 ≤ k ∧ k < g.1 + g.2.1)) :
    (BitVec.ofNat 256 (packFields gs)).toNat / 256 ^ k % 256 = 0 := by
  refine Nat.eq_of_testBit_eq fun i => ?_
  have bit := testBit_read (BitVec.ofNat 256 (packFields gs)) k 1 i
  rw [pow_one] at bit
  rw [bit, Nat.zero_testBit, ← Bool.not_eq_true, Bool.and_eq_true, decide_eq_true_eq, getLsbD_packFields laid.apart laid.fits]
  rintro ⟨low, -, g, mem, sets⟩
  have covered := sets.covered (laid.fits g mem)
  obtain ⟨start, -⟩ := sets
  exact uncovered g mem (by omega)

/-- A record says the fields it is packed of, in any order (R154). -/
theorem Laid.bytesSay {gs fs : List PackedField} (laid : Laid gs) (same : ∀ f, f ∈ fs ↔ f ∈ gs) :
    BytesSay (BitVec.ofNat 256 (packFields gs)) fs :=
  ⟨fun f mem => laid.reads ((same f).mp mem),
    fun _ _ uncovered => laid.zero fun g mem => uncovered g ((same g).mpr mem)⟩

/-! ## The codes of 11.2 -/

theorem modeCode_lt (m : Mode) : modeCode m < 256 := by cases m <;> decide
theorem gradeCode_lt (g : Grade) : gradeCode g < 256 := by cases g <;> decide
theorem flagCode_lt (b : Bool) : flagCode b < 256 := by cases b <;> decide
theorem clientStateCode_lt (x : ClientState) : clientStateCode x < 256 := by cases x <;> decide
theorem eventCode_lt (x : EventKind) : eventCode x < 256 := by cases x <;> decide
theorem standingCauseCode_lt (x : StandingCause) : standingCauseCode x < 256 := by cases x <;> decide
theorem clientId_lt (c : ClientId) : c.val < 256 := c.isLt.trans (by decide)

theorem statusCode_lt (x : Status) : statusCode x < 256 := by
  cases x with
  | cancelled reason => exact (by decide : 4 < 256)
  | _ => decide

theorem reasonCode_lt (x : Status) : reasonCode x < 256 := by
  cases x with
  | cancelled reason => cases reason <;> decide
  | _ => decide

/-! ## The values of a record fit their fields -/

/-- Each value fits the bytes of its field. -/
def Fits (gs : List PackedField) : Prop := ∀ g ∈ gs, g.2.2 < 256 ^ g.2.1

theorem Fits.nil : Fits [] := List.forall_mem_nil _

theorem Fits.cons {off len v : Nat} {gs : List PackedField} (fit : v < 256 ^ len) (rest : Fits gs) : Fits ((off, len, v) :: gs) :=
  List.forall_mem_cons.mpr ⟨fit, rest⟩

theorem Fits.append {gs hs : List PackedField} (first : Fits gs) (rest : Fits hs) : Fits (gs ++ hs) :=
  List.forall_mem_append.mpr ⟨first, rest⟩

theorem reportFields_fit {x : Report} (holders : x.holders < 256) (ahead : x.ahead < 256) : Fits (reportFields x) :=
  .cons (clientId_lt _) <| .cons holders <| .cons ahead <| .cons (modeCode_lt _) <| .cons (by decide) .nil

theorem granted_fit {token : Token} {lease waited count : Nat} {report : Option Report} (lease_lt : lease < 65536)
    (waited_lt : waited < 65536) (count_lt : count < 256) (reported : ∀ x ∈ report, Fits (reportFields x)) :
    Fits (bodyFields (.granted token lease waited report count)) := by
  refine .append (.cons token.isLt <| .cons lease_lt <| .cons waited_lt <| .cons count_lt .nil) ?_
  cases report with
  | none => exact .nil
  | some x => exact reported x rfl

theorem lock_fit {x : LockSnapshot} (holders : x.holders < 256) (waiters : x.waiters < 65536) (contention : x.contention < 65536) :
    Fits (bodyFields (.lock x)) :=
  .cons (modeCode_lt _) <| .cons holders <| .cons (clientId_lt _) <| .cons (clientId_lt _) <| .cons (modeCode_lt _) <|
    .cons (flagCode_lt _) <| .cons waiters <| .cons contention .nil

theorem client_fit {x : ClientSnapshot} (score : x.score < 256) (holds : x.holds < 65536) (waits : x.waits < 256)
    (watches : x.watches < 256) (reservations : x.reservations < 65536) (lost : x.lost < 65536) (recovery : x.recovery < 65536) :
    Fits (bodyFields (.client x)) :=
  .cons (clientStateCode_lt _) <| .cons score <| .cons (gradeCode_lt _) <| .cons (flagCode_lt _) <| .cons holds <| .cons waits <|
    .cons watches <| .cons reservations <| .cons lost <| .cons recovery .nil

/-- The values of a notice that are numbers fit their fields: a score one byte, a ring index two. -/
def Notice.Fits : Notice → Prop
  | .standing _ _ score | .clientStanding _ _ score => score < 256
  | .clientFault _ _ _ index => index < 65536
  | .expired .. | .revoked .. | .watch .. => True

theorem noticeFields_fit {n : Notice} (fits : n.Fits) : Machine.Fits (noticeFields n) := by
  cases n with
  | expired name token tag | revoked name token tag =>
    exact .cons (by decide) <| .cons tag.isLt <| .cons token.isLt <| .cons name.isLt .nil
  | standing old new score =>
    exact .cons (by decide) <| .cons (gradeCode_lt _) <| .cons (gradeCode_lt _) <| .cons fits .nil
  | watch tag kind name holder token mode =>
    exact .cons (by decide) <| .cons tag.isLt <| .cons token.isLt <| .cons name.isLt <| .cons (eventCode_lt _) <|
      .cons (clientId_lt _) <| .cons (modeCode_lt _) .nil
  | clientFault client ring kind index =>
    exact .cons (by decide) <| .cons (clientId_lt _) <| .cons ((ringCode_le _).trans_lt (by decide)) <|
      .cons ((faultCode_le _).trans_lt (by decide)) <| .cons fits .nil
  | clientStanding client cause score =>
    exact .cons (by decide) <| .cons (clientId_lt _) <| .cons (standingCauseCode_lt _) <| .cons fits .nil

/-! ## The records -/

section
variable {slot lost : Nat} {phase : Bool}

/-- The fields of a completion write, in the order in which they are packed (11.2). -/
def writtenFields (w : WriteInFlight) : List PackedField := (2, 1, flagCode w.phase) :: (4, 2, w.lost) :: completionFields w.record

/-- No two fields of a record share a byte, and all lie in its 32 bytes (11.2). -/
theorem writtenFields_placed (w : WriteInFlight) :
    (writtenFields w).Pairwise PackedField.Apart ∧ ∀ g ∈ writtenFields w, g.1 + g.2.1 ≤ 32 := by
  obtain ⟨slot, phase, lost, record⟩ := w
  cases record with
  | response r =>
    obtain ⟨status, tag, index, body⟩ := r
    cases body with
    | granted token lease waited report count =>
      cases report with
      | none => exact of_decide_eq_true rfl
      | some x => exact of_decide_eq_true rfl
    | _ => exact of_decide_eq_true rfl
  | notice n => cases n <;> exact of_decide_eq_true rfl

theorem writtenFields_laid {w : WriteInFlight} (lost : w.lost < 65536) (fits : Fits (completionFields w.record)) :
    Laid (writtenFields w) :=
  have ⟨apart, inside⟩ := writtenFields_placed w
  ⟨apart, inside, Fits.cons (flagCode_lt _) (Fits.cons lost fits)⟩

/-- A response says its header and its body (11.2, R123). -/
theorem response_says {status : Status} {tag : Tag} {index : Nat} {body : Body} (lost_lt : lost < 65536) (index_lt : index < 65536)
    (fits : Fits (bodyFields body)) :
    BytesSay (completionBytes { slot := slot, phase := phase, lost := lost,
                                record := .response { status := status, tag := tag, index := index, body := body } })
      ([(0, 1, 0), (1, 1, statusCode status), (2, 1, flagCode phase), (3, 1, reasonCode status), (4, 2, lost), (6, 2, index),
        (8, 4, tag.toNat)] ++ bodyFields body) := by
  have fits : Fits (completionFields (.response { status := status, tag := tag, index := index, body := body })) :=
    .append (.cons (by decide) <| .cons (statusCode_lt _) <| .cons (reasonCode_lt _) <| .cons index_lt <| .cons tag.isLt .nil) fits
  refine (writtenFields_laid (w := ⟨slot, phase, lost, _⟩) lost_lt fits).bytesSay fun f => ?_
  simp only [writtenFields, completionFields, List.cons_append, List.nil_append, List.mem_cons]
  tauto

/-- A notice says its kind, the phase, the lost count and its fields (11.2, R125). -/
theorem notice_says {n : Notice} {kind : Nat} {fields : List PackedField} (lost_lt : lost < 65536) (fits : n.Fits)
    (named : noticeFields n = (0, 1, kind) :: fields) :
    BytesSay (completionBytes { slot := slot, phase := phase, lost := lost, record := .notice n })
      ([(0, 1, kind), (2, 1, flagCode phase), (4, 2, lost)] ++ fields) := by
  refine (writtenFields_laid (w := ⟨slot, phase, lost, .notice n⟩) lost_lt (noticeFields_fit fits)).bytesSay fun f => ?_
  simp only [writtenFields, completionFields, named, List.cons_append, List.nil_append, List.mem_cons]
  tauto

end

end Sys2Proof.Machine

open Sys2Proof Sys2Proof.Machine in
/-- Settles O47: the fields of every record share no byte, so that each byte is that of its one field or 0. -/
theorem completionBytesOfAResponse : Obligations.CompletionBytesOfAResponse := by
  unfold Obligations.CompletionBytesOfAResponse
  intro statuses mode grade yes side report fits
  have codes : ∀ p ∈ statuses, p.2.1 = statusCode p.1 ∧ p.2.2 = reasonCode p.1 := by
    simp only [statuses]; decide
  refine ⟨fun status => ⟨(status, statusCode status, reasonCode status), ?_, rfl⟩, fun slot lost phase lost_lt => ?_⟩
  · cases status with
    | cancelled reason => cases reason <;> simp [statuses, statusCode, reasonCode]
    | _ => simp [statuses, statusCode, reasonCode]
  intro bytes
  refine ⟨fun tag index index_lt => ?_, ?_⟩
  · intro spells
    refine ⟨fun status code reason listed => ?_, fun token lease waited count lease_lt waited_lt count_lt => ?_, ?_, ?_, ?_, ?_, ?_⟩
    · obtain ⟨(code_eq : code = statusCode status), (reason_eq : reason = reasonCode status)⟩ := codes _ listed
      subst code_eq reason_eq
      exact response_says lost_lt index_lt .nil
    · exact ⟨response_says lost_lt index_lt (granted_fit lease_lt waited_lt count_lt nofun),
        fun x ⟨holders, ahead⟩ => response_says lost_lt index_lt
          (granted_fit lease_lt waited_lt count_lt fun y same => Option.some.inj same ▸ reportFields_fit holders ahead)⟩
    · exact fun x bitmap ⟨holders, ahead⟩ bitmap_lt =>
        response_says lost_lt index_lt (.cons bitmap_lt (reportFields_fit holders ahead))
    · exact fun x waited ⟨holders, ahead⟩ waited_lt =>
        response_says lost_lt index_lt (.cons waited_lt (reportFields_fit holders ahead))
    · exact fun lease lease_lt => response_says lost_lt index_lt (.cons lease_lt .nil)
    · exact fun x holders waiters contention => response_says lost_lt index_lt (lock_fit holders waiters contention)
    · exact fun x score holds waits watches reservations lost recovery =>
        response_says lost_lt index_lt (client_fit score holds waits watches reservations lost recovery)
  · intro spells
    refine ⟨fun name token tag => ⟨notice_says lost_lt trivial rfl, notice_says lost_lt trivial rfl⟩, ?_, ?_, ?_, ?_⟩
    · exact fun old new score score_lt => notice_says lost_lt score_lt rfl
    · exact fun tag kind name holder token m => notice_says lost_lt trivial rfl
    · exact fun c ring kind index index_lt => notice_says lost_lt index_lt rfl
    · exact fun c cause score score_lt => notice_says lost_lt score_lt rfl
end

section
/-! PROOFS. CONFIGURE_CLIENT: what its owner decides, in the order of R134, and the swap that an accepted one leaves waiting. -/

namespace Sys2Proof.Machine

section
variable {s : State} {k : Taken} {f : Decode.ConfigureFields}

/-! ## The owner's conditions -/

theorem State.configurable_iff (s : State) (c : ClientId) : s.configurable c = true ↔
    (s.client c).state = .unconfigured ∨
      ((s.client c).state = .disabled ∧ (s.account c).holds = [] ∧ (s.account c).waits = 0 ∧
        (∀ w ∈ s.watches, w.owner ≠ c) ∧ (s.ring c).fetch = .idle) := by
  simp only [State.configurable, Bool.or_eq_true, Bool.and_eq_true, beq_iff_eq, List.isEmpty_iff,
    State.watchCount_eq_zero_iff, and_assoc]

/-- The record is taken from the control queue, so that nothing at the target has changed. -/
theorem State.configurable_recordTaken (s : State) {c : ClientId} (target : c ≠ 0) :
    (s.recordTaken 0).configurable c = s.configurable c := by
  rw [State.configurable, State.ring_recordTaken_of_ne s target]
  rfl

theorem validConfig_iff (f : Decode.ConfigureFields) : validConfig f = true ↔
    f.sqBase.toNat % 4096 = 0 ∧ f.cqBase.toNat % 4096 = 0 ∧ (∃ k, 4 ≤ k ∧ k ≤ 12 ∧ f.sqSize = 2 ^ k) ∧
      (∃ k, 4 ≤ k ∧ k ≤ 12 ∧ f.cqSize = 2 ^ k) ∧ f.holdQuota ≤ 256 ∧ f.waitQuota ≤ 64 := by
  simp only [validConfig, Bool.and_eq_true, decide_eq_true_eq, validBase_iff, validSize_iff, and_assoc]

/-! ## What the owner decides -/

section
variable (target : f.target ≠ 0) (noTeardown : (s.client f.target).teardown = none)
include target noTeardown

theorem configureTaken_busy (busy : ¬ s.configurable f.target = true) : configureTaken k f s = s.answer k .clientBusy := by
  rw [configureTaken, State.onClient_of_open _ _ target noTeardown]
  simp [busy]

theorem configureTaken_badConfig (accepts : s.configurable f.target = true) (bad : ¬ validConfig f = true) :
    configureTaken k f s = s.answer k .badConfig := by
  rw [configureTaken, State.onClient_of_open _ _ target noTeardown]
  simp [accepts, bad]

/-- An accepted configuration is stored at once, and its answer waits with the rings for the swap (R134). -/
theorem configureTaken_accepted (accepts : s.configurable f.target = true) (good : validConfig f = true)
    (noSwap : (s.client f.target).swap = none) : configureTaken k f s =
      s.setClient f.target { s.client f.target with
        state := .disabled, config := storedConfig f,
        swap := some { place := configuredPlace f, old := (s.client f.target).config, waiting := [k.ref] } } := by
  rw [configureTaken, State.onClient_of_open _ _ target noTeardown]
  simp [accepts, good, noSwap, ClientRecord.swapWith]

end

theorem exec_configureClient {r : Record} (ready : Ready s 0 .configureClient r) (hf : Decode.configureFields r = some f) :
    exec (.configureClient 0) s = .next (configureTaken (s.takenAs 0 r) f (s.recordTaken 0)) :=
  takeEvent_command Decode.configureFields configureTaken ready hf

end

end Sys2Proof.Machine

open Sys2Proof Sys2Proof.Machine in
/-- Settles O51: the refusals before the owner's own conditions are those of every command that names a client, and the conditions
are judged at the state in which the record was in hand. -/
theorem configureClientInOrder : Obligations.ConfigureClientInOrder := by
  intro s r f ready hf c open' size valid
  have judged (target : c ≠ 0) : (s.recordTaken 0).configurable c = true ↔ open' := by
    rw [State.configurable_recordTaken s target]
    exact s.configurable_iff c
  have good : validConfig f = true ↔ valid := validConfig_iff f
  rw [exec_configureClient ready hf]
  refine ⟨fun control => ?_, fun target teardown => ?_, fun target noTeardown busy => ?_,
    fun target noTeardown accepts bad => ?_, fun target noTeardown accepts isGood noSwap => ?_⟩
  · rw [configureTaken, State.onClient_control _ _ control, State.recordTaken_answer]
  · rw [configureTaken, State.onClient_underTeardown (s := s.recordTaken 0) _ _ target teardown, State.recordTaken_answer]
  · rw [configureTaken_busy (s := s.recordTaken 0) target noTeardown (mt (judged target).mp busy), State.recordTaken_answer]
  · rw [configureTaken_badConfig (s := s.recordTaken 0) target noTeardown ((judged target).mpr accepts) (mt good.mp bad),
      State.recordTaken_answer]
  · rw [configureTaken_accepted (s := s.recordTaken 0) target noTeardown ((judged target).mpr accepts) (good.mpr isGood) noSwap]
    rfl
end

section
/-! PROOFS. Faults on a control ring: the access is settled, the fault offered, the engine halted (R145, R147, R149). -/

namespace Sys2Proof.Machine

section
variable {s : State} {kind : FaultKind}

theorem controlReadFault_running (running : s.engine = .running) {k : Nat} {left : Bool} (reading : (s.ring 0).fetch = .fetching k left) :
    controlReadFault kind s =
      ((s.quiet.setRing 0 (s.ring 0).readFailed).offerFault { client := 0, ring := .submission, index := k, kind := kind }).halt
        .controlReadFault := by
  simp only [controlReadFault, reading, running]

theorem controlWriteFault_running (running : s.engine = .running) {w : WriteInFlight} (writing : (s.ring 0).writing = some w) :
    controlWriteFault kind s =
      ((s.quiet.setRing 0 (s.ring 0).writeFailed).offerFault { client := 0, ring := .completion, index := w.slot, kind := kind }).halt
        .controlWriteFault := by
  simp only [controlWriteFault, writing, running]

/-- What a failed access of a control ring leaves, with `r` the ring context in which the access is settled (R149). -/
theorem State.controlFault_eq (s : State) (r : RingContext) (f : FaultInfo) (cause : HaltCause) :
    ((s.quiet.setRing 0 r).offerFault f).halt cause = { s with
      linkOut := [], engine := .halted, haltCause := cause, capture := s.capture.offered f, rings := s.rings.set 0 r } := by
  rw [← Capture.offer_eq]; rfl

end

end Sys2Proof.Machine

open Sys2Proof Sys2Proof.Machine in
/-- Settles O58: each report is of an access of the present epoch, and a failed access of either ring halts the engine in one way. -/
theorem controlFaultHaltsTheEngine : Obligations.ControlFaultHaltsTheEngine := by
  intro s kind running
  refine ⟨fun k left reading => ?_, fun w writing => ?_⟩
  · exact (takeReport_current s _).trans (congrArg _ ((controlReadFault_running running reading).trans (s.controlFault_eq _ _ _)))
  · exact (takeReport_current s _).trans (congrArg _ ((controlWriteFault_running running writing).trans (s.controlFault_eq _ _ _)))
end

section
/-! PROOFS. Engine resets: what they leave, what a soft reset keeps, and the reports that they abandon (R148, R151, R152). -/

namespace Sys2Proof.Machine

/-- Two resets leave the same ring contexts, but for the place of client 0's rings, which the registers give (R151, R152). -/
theorem State.rings_afresh (q q' : List Instr) (n n' : Epoch) (regs regs' : Registers) (capture capture' : Capture) :
    (State.afresh q n regs capture).rings = (State.afresh q' n' regs' capture').rings.set 0
      { (State.afresh q' n' regs' capture').ring 0 with place := regs.place } := by
  rw [State.ring_afresh]
  exact (Vector.set_set ..).symm

theorem fullReset_eq (s : State) : fullReset s = .afresh s.pending (s.epoch + 1) .zero .empty := rfl

/-- A soft reset is power-on, but for what it keeps and for where that places client 0's rings (R151). -/
theorem softReset_eq_reset (s : State) : softReset s = { State.reset with
    pending := s.pending, epoch := s.epoch + 1, regs := s.regs, capture := s.capture,
    rings := State.reset.rings.set 0 { State.reset.ring 0 with place := s.regs.place } } :=
  congrArg (fun rings => { softReset s with rings := rings }) (State.rings_afresh _ [] _ 0 s.regs .zero _ .empty)

/-- Power-on is a soft reset that clears what that keeps (R152). -/
theorem fullReset_eq_softReset (s : State) : fullReset s = { softReset s with
    regs := .zero, capture := .empty,
    rings := (softReset s).rings.set 0 { (softReset s).ring 0 with place := Registers.zero.place } } :=
  congrArg (fun rings => { fullReset s with rings := rings }) (State.rings_afresh _ s.pending _ (s.epoch + 1) .zero s.regs _ s.capture)

/-- Registers that read 0 place no rings: a size of 0 is none of the sizes (R148, R152). -/
theorem validControlRings_zero : validControlRings Registers.zero ≠ true := by decide

/-- IDENT is the same word in every state, before and after a reset (11.3, R152). -/
theorem State.readIdent (s : State) : s.readRegister 0x000 = Config.partNumber ++ Config.designRevision := if_pos rfl

end Sys2Proof.Machine

open Sys2Proof Sys2Proof.Machine in
/-- Settles O3: a soft reset is power-on but for what it keeps, and a report of another epoch is ignored before its event is looked
at. -/
theorem softResetClearsEveryBlock : Obligations.SoftResetClearsEveryBlock := by
  refine ⟨fun s => ⟨softReset s, rfl, rfl, ?_⟩, fun s epoch c bytes kind other => ?_⟩
  · rw [← Registers.place_eq]
    exact softReset_eq_reset s
  · have ignored (o : Host.Outcome State Fault Refusal) : takeReport epoch s o = .next s := takeReport_abandoned epoch s o other
    exact ⟨ignored _, ignored _, ignored _, ignored _, ignored _, ignored _⟩

open Sys2Proof Sys2Proof.Machine in
/-- Settles O4: the reads are those of the reset state, and its registers place no rings for a START. -/
theorem powerOnAndLinkReset : Obligations.PowerOnAndLinkReset := by
  intro s
  obtain ⟨-, -, -, -, -, -, -, -, -, -, registersRead⟩ := resetValues
  have place : ((fullReset s).ring 0).place = Registers.zero.place := by rw [fullReset_eq, State.ring_afresh]; rfl
  refine ⟨fullReset s, softReset s, rfl, rfl, rfl, ?_, registersRead, rfl, rfl, ?_, (State.readIdent _).trans s.readIdent.symm⟩
  · rw [place]
    exact fullReset_eq_softReset s
  · exact congrArg Host.Outcome.next (startEngine_refuses rfl validControlRings_zero)
end

section
/-! PROOFS. One step: where a command stands at the front of the queue, the step is that command's. -/

namespace Sys2Proof.Machine

/-- The case of `step` for a queue that is not empty; `step_idle` says the other. -/
theorem step_front {s : State} {c : Instr} {rest : List Instr} (front : s.pending = c :: rest) :
    step s = exec c { s with pending := rest } := by
  unfold step
  rw [front]

end Sys2Proof.Machine

open Sys2Proof Sys2Proof.Machine in
/-- Settles O1: the step is the case of a queue with a command in front. -/
theorem stepRunsTheFrontCommand : Obligations.StepRunsTheFrontCommand :=
  fun _ _ _ front => step_front front
end
